-- ==== Sys2Proof/Word.lean ====
section
/-! DEFINITION. The word types of the block: the byte (00_scope.md R12), the 32-bit register and data word
(10_state.md R105, 30_encoding.md R320) and the 48-bit command word (30_encoding.md R301). -/

namespace Sys2Proof

/-- A byte, a natural in 0..255 (00_scope.md R12). -/
abbrev Byte := BitVec 8

/-- A 32-bit register value, command operand or response data word (10_state.md R105, 30_encoding.md R320). -/
abbrev Word := BitVec 32

/-- A 48-bit command word, `OP` in bits 47:40, `AUX` in 39:32, `DATA` in 31:0 (30_encoding.md R301). -/
abbrev CommandWord := BitVec 48

end Sys2Proof
end

