-- ==== Sys2Proof/Syntax.lean ====
section
/-! DEFINITION. The commands of the block: one constructor per row of spec/opcode_table.json (30_encoding.md R303),
its operands the fields rule R302 assembles. -/

namespace Sys2Proof

/-- A command of the block (30_encoding.md R303). Each operand has exactly the width of the field it comes from
(R302), so no term of this type is ill-formed; which command words are well-formed is `commandWellFormed`. -/
inductive Instr where
  /-- `NOP` (40_control.md R401). -/
  | nop
  /-- `CFG.WR`: register number `AUX`, value `DATA` (40_control.md R402). -/
  | cfgWr (reg : Byte) (value : Word)
  /-- `CFG.RD`: register number `AUX` (40_control.md R403). -/
  | cfgRd (reg : Byte)
  /-- `RESET`, the block reset (40_control.md R405). -/
  | reset
  /-- `ENC.SAMPLE`: the sample's 32-bit pattern (41_encoder.md R505). -/
  | encSample (sample : Word)
  /-- `ENC.FLUSH` (41_encoder.md R520). -/
  | encFlush
  /-- `ENC.RESET` (41_encoder.md R525). -/
  | encReset
  /-- `DEC.PULSE`: an unsigned pulse (42_decoder.md R602). -/
  | decPulse (pulse : Word)
  /-- `DEC.PULL`: an unsigned sample count (42_decoder.md R604). -/
  | decPull (count : Word)
  /-- `DEC.RESET` (42_decoder.md R620). -/
  | decReset
  /-- `PAR.BYTE`: the byte `DATA[7:0]` (44_framing.md R820). -/
  | parByte (byte : Byte)
  /-- `PAR.PULL` (44_framing.md R822). -/
  | parPull
  /-- `PAR.EOS` (44_framing.md R826). -/
  | parEos
  /-- `PAR.RESET` (44_framing.md R828). -/
  | parReset
  /-- `GEN.START` (44_framing.md R840). -/
  | genStart
  /-- `GEN.PULSE`: an unsigned pulse (44_framing.md R844). -/
  | genPulse (pulse : Word)
  /-- `GEN.FINISH` (44_framing.md R846). -/
  | genFinish
  /-- `GEN.RESET` (44_framing.md R848). -/
  | genReset
deriving DecidableEq, Repr

end Sys2Proof
end

