-- ==== Sys2Proof/WellFormed.lean ====
section
/-! DEFINITION. Which command words are legal (30_encoding.md R302 to R305), stated apart from the decoder: the `OP`
is assigned and every field the command does not use is 0. An `Instr` carries only used fields, each of its field's
width, so the checks are on words. -/

namespace Sys2Proof

/-- The fields of a command word a command uses (30_encoding.md R302). -/
inductive UsedFields where
  /-- Neither `AUX` nor `DATA`. -/
  | neither
  /-- `AUX` only (`CFG.RD`). -/
  | aux
  /-- `DATA` only. -/
  | data
  /-- `DATA[7:0]` only (`PAR.BYTE`). -/
  | dataByte
  /-- `AUX` and `DATA` (`CFG.WR`). -/
  | auxAndData
deriving DecidableEq, Repr

/-- The fields each assigned opcode uses; `none` for an unassigned one (30_encoding.md R302, R303, R305). -/
def usedFields (op : Nat) : Option UsedFields :=
  if op ∈ [0x00, 0x0F, 0x11, 0x1F, 0x2F, 0x31, 0x32, 0x3F, 0x40, 0x42, 0x4F] then some .neither
  else if op ∈ [0x10, 0x20, 0x21, 0x41] then some .data
  else if op = 0x30 then some .dataByte
  else if op = 0x01 then some .auxAndData
  else if op = 0x02 then some .aux
  else none

/-- The `OP` of the word is in the opcode table (30_encoding.md R303, R305). -/
def opAssigned (w : CommandWord) : Bool :=
  (usedFields (w.toNat / 2 ^ 40)).isSome

/-- Every bit of `AUX` and `DATA` that the word's command does not use is 0 (30_encoding.md R304). -/
def unusedFieldsZero (w : CommandWord) : Bool :=
  let aux := w.toNat / 2 ^ 32 % 2 ^ 8
  let data := w.toNat % 2 ^ 32
  match usedFields (w.toNat / 2 ^ 40) with
  | none => false
  | some .neither => aux == 0 && data == 0
  | some .aux => data == 0
  | some .data => aux == 0
  | some .dataByte => aux == 0 && data / 2 ^ 8 == 0
  | some .auxAndData => true

/-- A command word the block does not refuse with `ILLEGAL_CMD` (30_encoding.md R304, R305). -/
def commandWellFormed (w : CommandWord) : Bool :=
  opAssigned w && unusedFieldsZero w

end Sys2Proof
end

