-- ==== Sys2Proof/Decode.lean ====
section
/-! DEFINITION. The command decoder and encoder (30_encoding.md R301 to R305): total on every 48-bit word, an illegal
word refused by name, and the word of each command written from the same table. -/

namespace Sys2Proof

/-- Why a command word is no command (60_exceptions.md R904). Both reasons end the command with `ILLEGAL_CMD`. -/
inductive DecodeError where
  /-- `OP` is not in the table of 30_encoding.md R303 (R305 there). -/
  | unknownOpcode (op : Byte)
  /-- An unused `AUX` or `DATA` bit is not 0 (30_encoding.md R304). -/
  | reservedField (op : Byte)
deriving DecidableEq, Repr

/-- The field `OP`, bits 47:40 (30_encoding.md R301). -/
def opField (w : CommandWord) : Byte := w.extractLsb' 40 8

/-- The field `AUX`, bits 39:32 (30_encoding.md R301). -/
def auxField (w : CommandWord) : Byte := w.extractLsb' 32 8

/-- The field `DATA`, bits 31:0 (30_encoding.md R301). -/
def dataField (w : CommandWord) : Word := w.extractLsb' 0 32

/-- The command `i`, or the refusal when the unused fields are not all 0 (30_encoding.md R304). -/
def checkFields (op : Byte) (unusedZero : Bool) (i : Instr) : Except DecodeError Instr :=
  if unusedZero then .ok i else .error (.reservedField op)

/-- A command that uses neither field (30_encoding.md R302). -/
def decodePlain (op aux : Byte) (data : Word) (i : Instr) : Except DecodeError Instr :=
  checkFields op (aux == 0#8 && data == 0#32) i

/-- A command that uses `DATA` only (30_encoding.md R302). -/
def decodeData (op aux : Byte) (i : Instr) : Except DecodeError Instr :=
  checkFields op (aux == 0#8) i

/-- The command of three fields: `OP` alone selects it, then the unused fields are checked (30_encoding.md R303,
R304; the order of 60_exceptions.md R920). -/
def decodeFields (op aux : Byte) (data : Word) : Except DecodeError Instr :=
  match op.toNat with
  | 0x00 => decodePlain op aux data .nop
  | 0x01 => .ok (.cfgWr aux data)
  | 0x02 => checkFields op (data == 0#32) (.cfgRd aux)
  | 0x0F => decodePlain op aux data .reset
  | 0x10 => decodeData op aux (.encSample data)
  | 0x11 => decodePlain op aux data .encFlush
  | 0x1F => decodePlain op aux data .encReset
  | 0x20 => decodeData op aux (.decPulse data)
  | 0x21 => decodeData op aux (.decPull data)
  | 0x2F => decodePlain op aux data .decReset
  | 0x30 => checkFields op (aux == 0#8 && data.extractLsb' 8 24 == 0#24) (.parByte (data.extractLsb' 0 8))
  | 0x31 => decodePlain op aux data .parPull
  | 0x32 => decodePlain op aux data .parEos
  | 0x3F => decodePlain op aux data .parReset
  | 0x40 => decodePlain op aux data .genStart
  | 0x41 => decodeData op aux (.genPulse data)
  | 0x42 => decodePlain op aux data .genFinish
  | 0x4F => decodePlain op aux data .genReset
  | _ => .error (.unknownOpcode op)

/-- The command of a 48-bit word, or the name of its refusal (30_encoding.md R303 to R305). -/
def decode (w : CommandWord) : Except DecodeError Instr :=
  decodeFields (opField w) (auxField w) (dataField w)

/-- The word of three fields, `OP` most significant (30_encoding.md R301). -/
def assemble (op aux : Byte) (data : Word) : CommandWord :=
  BitVec.ofNat 48 (op.toNat * 2 ^ 40 + aux.toNat * 2 ^ 32 + data.toNat)

/-- The command word of a command, unused fields 0 (30_encoding.md R302, R303). -/
def encode : Instr → CommandWord
  | .nop => assemble 0x00#8 0#8 0#32
  | .cfgWr reg value => assemble 0x01#8 reg value
  | .cfgRd reg => assemble 0x02#8 reg 0#32
  | .reset => assemble 0x0F#8 0#8 0#32
  | .encSample sample => assemble 0x10#8 0#8 sample
  | .encFlush => assemble 0x11#8 0#8 0#32
  | .encReset => assemble 0x1F#8 0#8 0#32
  | .decPulse pulse => assemble 0x20#8 0#8 pulse
  | .decPull count => assemble 0x21#8 0#8 count
  | .decReset => assemble 0x2F#8 0#8 0#32
  | .parByte byte => assemble 0x30#8 0#8 (byte.setWidth 32)
  | .parPull => assemble 0x31#8 0#8 0#32
  | .parEos => assemble 0x32#8 0#8 0#32
  | .parReset => assemble 0x3F#8 0#8 0#32
  | .genStart => assemble 0x40#8 0#8 0#32
  | .genPulse pulse => assemble 0x41#8 0#8 pulse
  | .genFinish => assemble 0x42#8 0#8 0#32
  | .genReset => assemble 0x4F#8 0#8 0#32

/-- The command word of a table row's number `w` of `nbits` bits: the block has one command length, 48 bits, and every
bit above `nbits` is 0 (30_encoding.md R301). -/
def tableWord (nbits w : Nat) : CommandWord := BitVec.ofNat 48 (w % 2 ^ nbits)

/-- The command the decoder reads from a table row's word; none where it refuses. -/
def decodeTableWord (nbits w : Nat) : Option Instr := (decode (tableWord nbits w)).toOption

end Sys2Proof
end

