-- ==== Sys2Proof/Config.lean ====
section
/-! DEFINITION. The implementation parameters of 00_scope.md R8: the record `Params` of those with a value in the spec,
which a model takes as arguments (93_implementation_defined.md P1 to P6), and the free constants for those the spec
leaves OPEN (P4, P7; 92_eei_decisions.md D21, D45), which are arguments too: a constant with no body stands for every
value of it. -/

namespace Sys2Proof.Config

/-- The largest TAP pulse section, the bound of the 4-byte `data_length` field (60_exceptions.md R914). -/
def tapSectionMax : Nat := 0xFFFFFFFF

/-- The machines a header names, codes 0, 1, 2 (10_state.md R152). -/
inductive Computer where
  | c64
  | vic20
  | c16
deriving DecidableEq, Repr

/-- The video standards, codes 0 and 1 (10_state.md R152). -/
inductive VideoStd where
  | pal
  | ntsc
deriving DecidableEq, Repr

/-- A rate for each machine and video standard, in Hz (10_state.md R150). -/
structure RateTable where
  c64Pal : Word
  c64Ntsc : Word
  vic20Pal : Word
  vic20Ntsc : Word
  c16Pal : Word
  c16Ntsc : Word
deriving DecidableEq, Repr

/-- The defaults of `RATE_ENC` (10_state.md R150). PRESUMED by the spec itself (93_implementation_defined.md G2,
general knowledge), unsafe: notes/assumptions/7.md. -/
def rateEncDefault : RateTable where
  c64Pal := 985248#32
  c64Ntsc := 1022727#32
  vic20Pal := 1108405#32
  vic20Ntsc := 1022727#32
  c16Pal := 886724#32
  c16Ntsc := 894886#32

/-- The parameters of one block (00_scope.md R8; 93_implementation_defined.md P1 to P6). A capacity of `none` is
unbounded. They stand in `Machine.State.params`, which no step writes, so a statement about every state is one about
every value of them: notes/assumptions/3.md. What a width or size other than the spec's means is a DESIGN CHOICE,
unsafe at those values only: notes/assumptions/4.md. -/
structure Params where
  /-- `W_SAMPLE`, the width of an encoder input sample and of a decoder output sample. -/
  wSample : Nat
  /-- `W_CNT`, the width of the encoder's sample counter. -/
  wCnt : Nat
  /-- `W_PULSE`, the width of a pulse value on the command port, in the decoder and in the parser accumulator. -/
  wPulse : Nat
  /-- `HEADER_SIZE`, the bytes of a container header. -/
  headerSize : Nat
  /-- `TAP_SCALE`, the divisor of a TAP narrow field. -/
  tapScale : Nat
  /-- `TAP_WIDE_SENTINEL`, the TAP v1/v2 wide overflow value. -/
  tapWideSentinel : Nat
  /-- `PAR_BUF_CAP` in bytes (20_memory.md R204). -/
  parBufCap : Option Nat
  /-- `SINK_CAP` in bytes (20_memory.md R206). -/
  sinkCap : Option Nat
  /-- `SINE_SUPPORTED` (42_decoder.md R612). -/
  sineSupported : Bool
  /-- `V0_ZERO_VALUE`, the samples a TAP v0 zero byte stands for (43_overflow_codec.md R705). -/
  v0ZeroValue : Nat
  /-- `RATE_ENC` (10_state.md R150). -/
  rateEnc : RateTable
  /-- `RATE_DEC[C64][PAL]`, the one entry of `RATE_DEC` the source gives (10_state.md R151). -/
  rateDecC64Pal : Word
deriving DecidableEq, Repr

/-- The largest value of the sample counter, `2^W_CNT - 1` (41_encoder.md R512). -/
def cntMax (params : Params) : Nat := 2 ^ params.wCnt - 1

/-- `PULSE_MAX`, `2^W_PULSE - 1` (00_scope.md R8). -/
def pulseMax (params : Params) : Nat := 2 ^ params.wPulse - 1

/-- The values 00_scope.md R8 and 93_implementation_defined.md P1 to P6 give the parameters. -/
def reference : Params where
  wSample := 32
  wCnt := 32
  wPulse := 32
  headerSize := 20
  tapScale := 8
  tapWideSentinel := 0xFFFFFF
  parBufCap := none
  sinkCap := none
  sineSupported := false
  v0ZeroValue := 25000
  rateEnc := rateEncDefault
  rateDecC64Pal := 985248#32

/-- `RATE_DEC_C64_NTSC`, OPEN: a free value (10_state.md R151), notes/assumptions/5.md. -/
opaque rateDecC64Ntsc : Word

/-- `RATE_DEC_VIC20_PAL`, OPEN: a free value (10_state.md R151), notes/assumptions/5.md. -/
opaque rateDecVic20Pal : Word

/-- `RATE_DEC_VIC20_NTSC`, OPEN: a free value (10_state.md R151), notes/assumptions/5.md. -/
opaque rateDecVic20Ntsc : Word

/-- `RATE_DEC_C16_PAL`, OPEN: a free value (10_state.md R151), notes/assumptions/5.md. -/
opaque rateDecC16Pal : Word

/-- `RATE_DEC_C16_NTSC`, OPEN: a free value (10_state.md R151), notes/assumptions/5.md. -/
opaque rateDecC16Ntsc : Word

/-- The free part of `SINE_RAMP(from, to, j, L)`, OPEN (42_decoder.md R612); the constraints of that rule are put on
it by `Machine.sineRamp`. A free value, notes/assumptions/6.md. -/
opaque sineRampFree : Int → Int → Nat → Nat → Int

end Sys2Proof.Config
end

