-- ==== Sys2Proof/Machine/State.lean ====
section
/-! DEFINITION. The state of one block (10_state.md): its four units with their configuration registers, the command
port and the response, the parameters; its status codes (60_exceptions.md R902); and the state after reset. Nothing
the block does stops it (60_exceptions.md R901), so `Fault` is empty. -/

namespace Sys2Proof.Machine

/-- The reasons a step could stop with a fault: none. A command's outcome is only the status of its response and the
status registers (60_exceptions.md R901), so every step answers a next state. Nobody raises one; DEDUCED, safe:
notes/assumptions/11.md. -/
inductive Fault where
deriving DecidableEq, Repr

/-- The reasons a step could be refused. An illegal command word is no such refusal: it has a response with the
status `ILLEGAL_CMD` (60_exceptions.md R904). -/
inductive Refusal where
  /-- A command that has no meaning in the model yet, raised by an arm of `exec` only; no arm raises it. Safe. -/
  | notModelled (mnemonic : String)
deriving DecidableEq, Repr

/-- The status codes of 60_exceptions.md R902. -/
inductive Status where
  | ok
  | needMore
  | endOfStream
  | illegalCmd
  | badReg
  | badState
  | busy
  | invalidHeader
  | invalidField
  | pulseOverflow
  | truncatedAtEos
  | unsupportedConfig
  | zeroPulse
  | counterOverflow
  | lengthOverflow
deriving DecidableEq, Repr

/-- The response of one command: its status and its data words in the order they were emitted (30_encoding.md
R320). -/
structure Response where
  status : Status
  words : List Word
deriving DecidableEq, Repr

/-- `enc.mode` (10_state.md R117). -/
inductive EncMode where
  | running
  | ended
  | faulted
deriving DecidableEq, Repr

/-- `enc.dir`: `up` tracks a maximum, `down` a minimum (10_state.md R117). -/
inductive Dir where
  | up
  | down
deriving DecidableEq, Repr

/-- The ENC unit: its configuration registers (10_state.md R110 to R113) and its unit state (R117). -/
structure Enc where
  /-- ENC_CTRL as stored (R110). -/
  ctrl : Word
  /-- ENC_SENS as stored (R111). -/
  sens : Word
  /-- ENC_MINDUR (R112). -/
  minDur : Word
  /-- ENC_THRESH (R113). -/
  thresh : Word
  mode : EncMode
  /-- The initial threshold has been exceeded once. -/
  armed : Bool
  dir : Dir
  /-- The running extremum in the tracked direction, in `[-2^31, 2^31]`. -/
  ext : Int
  /-- The excursion of the last accepted turn, or the initial threshold before any, in `[0, 2^32]`. -/
  level : Nat
  /-- Samples since the last emitted pulse, in `[0, 2^W_CNT - 1]`. -/
  count : Nat
  /-- The sticky counter-overflow fault bit. -/
  fCntOvf : Bool
deriving DecidableEq, Repr

/-- `dec.mode` (10_state.md R124). -/
inductive DecMode where
  | running
  | faulted
deriving DecidableEq, Repr

/-- A level sign, +1 or -1 (10_state.md R124). -/
inductive Sign where
  | pos
  | neg
deriving DecidableEq, Repr

/-- The DEC unit: its configuration registers (10_state.md R120, R121) and its unit state (R124). -/
structure Dec where
  /-- DEC_CTRL as stored (R120). -/
  ctrl : Word
  /-- DEC_VOLUME as stored (R121). -/
  volume : Word
  mode : DecMode
  /-- The length of the current pulse. -/
  plen : Nat
  /-- Samples of the current pulse not yet output. -/
  rem : Nat
  /-- In half-wave mode, the level sign of the next pulse. -/
  nextSign : Sign
  /-- In half-wave mode, the level sign of the current pulse. -/
  curSign : Sign
  /-- DEC_CTRL `HALF` as latched at the start of the current pulse. -/
  curHalf : Bool
  /-- The sticky zero-pulse fault bit. -/
  fZero : Bool
deriving DecidableEq, Repr

/-- A profile: the byte layout of pulses (10_state.md R148). `dmp bits` has `bits` in 1..32. -/
inductive Profile where
  | tapV0
  | tapV1
  | tapV2
  | dmp (bits : Nat)
deriving DecidableEq, Repr

/-- `gen.mode` (10_state.md R135). -/
inductive GenMode where
  | idle
  | writing
  | done
  | faulted
deriving DecidableEq, Repr

/-- The GEN unit: its configuration registers (10_state.md R130, R131) and its unit state (R135). `gen.wptr` is the
length of `sink` (R135, 20_memory.md R205) and is not stored a second time. -/
structure Gen where
  /-- GEN_CFG as stored (R130). -/
  cfg : Word
  /-- GEN_RATE (R131). -/
  rateReg : Word
  mode : GenMode
  /-- The profile latched at `GEN.START`. -/
  profile : Profile
  /-- The header as last written, 20 bytes. -/
  hdr : List Byte
  /-- The sink, offset 0 first (20_memory.md R205). -/
  sink : List Byte
  /-- The rate GEN_RATE_OUT reads (R134). -/
  rate : Word
  /-- The latched header version byte (R132). -/
  version : Byte
  machine : Config.Computer
  video : Config.VideoStd
  lossy : Bool
  fUnsupported : Bool
  fZero : Bool
  fLength : Bool
deriving DecidableEq, Repr

/-- `par.mode` (10_state.md R143). -/
inductive ParMode where
  | awaitingHeader
  | streamingPulses
  | invalid
  | done
deriving DecidableEq, Repr

/-- The values of `par.err`, PAR_STATUS `ERR` 0 to 8 in this order (10_state.md R140). -/
inductive ParErr where
  | none
  | badSignature
  | badVersion
  | badMachine
  | badVideo
  | badBps
  | headerTruncated
  | badField
  | pulseOverflow
deriving DecidableEq, Repr

/-- PAR_STATUS `FORMAT` (10_state.md R140). -/
inductive Format where
  | tap
  | dmp
deriving DecidableEq, Repr

/-- PAR_STATUS `FAMILY`: "C64-TAPE-RAW" or "C16-TAPE-RAW" (10_state.md R140). -/
inductive Family where
  | c64
  | c16
deriving DecidableEq, Repr

/-- The PAR unit (10_state.md R143) with the fields recorded from a valid header (R140, R141, 44_framing.md R818).
It has no configuration register. -/
structure Par where
  mode : ParMode
  /-- Every byte received since reset, in order (20_memory.md R202). -/
  buf : List Byte
  /-- The consume offset. -/
  cur : Nat
  /-- End of input has been signalled. -/
  eos : Bool
  profile : Profile
  err : ParErr
  /-- The stream ended inside a pulse. -/
  trailing : Bool
  version : Byte
  machine : Byte
  video : Byte
  bps : Byte
  rate : Word
  dataLen : Word
  reserved : Byte
  halfWaves : Bool
  format : Format
  family : Family
deriving DecidableEq, Repr

/-- The state of one block and its command port. -/
structure State where
  /-- The implementation parameters (00_scope.md R8). No step writes them. The model's own field,
  notes/assumptions/3.md. -/
  params : Config.Params
  /-- The command words the host has issued and the block has not performed, oldest first (30_encoding.md R301,
  20_memory.md R213). The model's own field, notes/assumptions/1.md. -/
  port : List CommandWord
  /-- The response of the last completed command (30_encoding.md R320), notes/assumptions/2.md. -/
  response : Response
  enc : Enc
  dec : Dec
  gen : Gen
  par : Par
deriving DecidableEq, Repr

/-- ENC after a block reset (10_state.md R106, R117). -/
def encReset : Enc where
  ctrl := 0#32
  sens := 0x64#32
  minDur := 0#32
  thresh := 0#32
  mode := .running
  armed := false
  dir := .up
  ext := 0
  level := 0
  count := 0
  fCntOvf := false

/-- DEC after a block reset (10_state.md R106, R124). -/
def decReset : Dec where
  ctrl := 0#32
  volume := 0x7FFFFFFF#32
  mode := .running
  plen := 0
  rem := 0
  nextSign := .pos
  curSign := .pos
  curHalf := false
  fZero := false

/-- GEN after a block reset (10_state.md R106, R135). -/
def genReset : Gen where
  cfg := 0x800#32
  rateReg := 0#32
  mode := .idle
  profile := .tapV0
  hdr := List.replicate 20 0#8
  sink := []
  rate := 0#32
  version := 0#8
  machine := .c64
  video := .pal
  lossy := false
  fUnsupported := false
  fZero := false
  fLength := false

/-- PAR after a reset (10_state.md R143). -/
def parReset : Par where
  mode := .awaitingHeader
  buf := []
  cur := 0
  eos := false
  profile := .tapV0
  err := .none
  trailing := false
  version := 0#8
  machine := 0#8
  video := 0#8
  bps := 0#8
  rate := 0#32
  dataLen := 0#32
  reserved := 0#8
  halfWaves := false
  format := .tap
  family := .c64

/-- The block at power-on, which is the state `RESET` leaves (70_reset_and_hazards.md R1001 to R1003): the parameters
at their reference values (notes/assumptions/3.md), no command issued (notes/assumptions/1.md), and the response a
`RESET` gives (notes/assumptions/2.md). -/
def State.reset : State where
  params := Config.reference
  port := []
  response := ⟨.ok, []⟩
  enc := encReset
  dec := decReset
  gen := genReset
  par := parReset

end Sys2Proof.Machine
end

