-- ==== Sys2Proof/Machine/Operands.lean ====
section
/-! DEFINITION. How operands and bytes are read: the sample and pulse operands (30_encoding.md R302), little-endian
fields (00_scope.md R12, 20_memory.md R207), the codes of machines and video standards (10_state.md R152), the rate
tables (R150, R151), the register numbers (R106), and the fields of the configuration registers (R110 to R130). -/

namespace Sys2Proof.Machine

/-- `as_int(s)`, the signed value of a sample word (00_scope.md R11). -/
def asInt (s : Word) : Int := s.toInt

/-- `to_word32(x)`, the 32-bit two's-complement pattern of an integer (00_scope.md R11). -/
def toWord32 (x : Int) : Word := BitVec.ofInt 32 x

/-- The sample an `ENC.SAMPLE` operand stands for: its low `W_SAMPLE` bits in two's complement, `as_int` at the spec's
width of 32 (41_encoder.md R503, 00_scope.md R8, R11). Another width: notes/assumptions/4.md. -/
def sampleOperand (params : Config.Params) (data : Word) : Int := Int.bmod (asInt data) (2 ^ params.wSample)

/-- The data word of an output sample: the `W_SAMPLE`-bit value of an integer, sign-extended, `to_word32` at the spec's
width of 32 (42_decoder.md R607, 00_scope.md R8, R11). Another width: notes/assumptions/4.md. -/
def sampleWord (params : Config.Params) (v : Int) : Word := toWord32 (Int.bmod v (2 ^ params.wSample))

/-- The pulse a `DEC.PULSE` or `GEN.PULSE` operand stands for: its low `W_PULSE` bits, the whole operand at the spec's
width of 32 (30_encoding.md R302, 00_scope.md R8). Another width: notes/assumptions/4.md. -/
def pulseOperand (params : Config.Params) (data : Word) : Nat := data.toNat % 2 ^ params.wPulse

/-- A natural as a 32-bit data word (30_encoding.md R320). -/
def natWord (n : Nat) : Word := BitVec.ofNat 32 n

/-- A natural saturated to 32 bits (10_state.md R116, R133, R142). -/
def saturated (n : Nat) : Word := BitVec.ofNat 32 (min n 0xFFFFFFFF)

/-- `LE_n(v)`, the `n` bytes of a natural, least significant first (00_scope.md R12). -/
def leBytes : Nat → Nat → List Byte
  | 0, _ => []
  | n + 1, v => BitVec.ofNat 8 v :: leBytes n (v / 256)

/-- `fromLE(bytes)`, the natural of little-endian bytes (00_scope.md R12). -/
def fromLE : List Byte → Nat
  | [] => 0
  | b :: rest => b.toNat + 256 * fromLE rest

/-- The byte at offset `i` of a header; 0 past its end, which no header of 20 bytes has: DESIGN CHOICE, unsafe at a
HEADER_SIZE below 16 only, notes/assumptions/4.md. -/
def byteAt (h : List Byte) (i : Nat) : Byte := h.getD i 0#8

/-- The machine code of a header or of GEN_CFG (10_state.md R152). -/
def computerCode : Config.Computer → Byte
  | .c64 => 0#8
  | .vic20 => 1#8
  | .c16 => 2#8

/-- The machine of a code; none for a code that is no machine (10_state.md R130, R152). -/
def computerOfCode (n : Nat) : Option Config.Computer :=
  if n = 0 then some .c64 else if n = 1 then some .vic20 else if n = 2 then some .c16 else none

/-- The video code of a header or of GEN_CFG (10_state.md R152). -/
def videoCode : Config.VideoStd → Byte
  | .pal => 0#8
  | .ntsc => 1#8

/-- The video standard of a code; none for a code that is no standard (10_state.md R152). -/
def videoOfCode (n : Nat) : Option Config.VideoStd :=
  if n = 0 then some .pal else if n = 1 then some .ntsc else none

/-- The entry of a rate table for a machine and a video standard (10_state.md R150). -/
def rateLookup (t : Config.RateTable) : Config.Computer → Config.VideoStd → Word
  | .c64, .pal => t.c64Pal
  | .c64, .ntsc => t.c64Ntsc
  | .vic20, .pal => t.vic20Pal
  | .vic20, .ntsc => t.vic20Ntsc
  | .c16, .pal => t.c16Pal
  | .c16, .ntsc => t.c16Ntsc

/-- `RATE_DEC`, one entry a parameter with a value in the spec and five free (10_state.md R151). -/
def rateDec (params : Config.Params) : Config.RateTable where
  c64Pal := params.rateDecC64Pal
  c64Ntsc := Config.rateDecC64Ntsc
  vic20Pal := Config.rateDecVic20Pal
  vic20Ntsc := Config.rateDecVic20Ntsc
  c16Pal := Config.rateDecC16Pal
  c16Ntsc := Config.rateDecC16Ntsc

/-- The assigned registers (10_state.md R106). -/
inductive Reg where
  | encCtrl
  | encSens
  | encMinDur
  | encThresh
  | encStatus
  | encCount
  | encLevel
  | decCtrl
  | decVolume
  | decStatus
  | decRem
  | decPlen
  | genCfg
  | genRate
  | genStatus
  | genWptr
  | genRateOut
  | parStatus
  | parVersion
  | parMachine
  | parVideo
  | parBps
  | parRate
  | parDataLen
  | parOffset
  | parBufLen
  | parReserved
deriving DecidableEq, Repr

/-- The number of a register (10_state.md R106). -/
def regNumber : Reg → Byte
  | .encCtrl => 0x10#8
  | .encSens => 0x11#8
  | .encMinDur => 0x12#8
  | .encThresh => 0x13#8
  | .encStatus => 0x14#8
  | .encCount => 0x15#8
  | .encLevel => 0x16#8
  | .decCtrl => 0x20#8
  | .decVolume => 0x21#8
  | .decStatus => 0x22#8
  | .decRem => 0x23#8
  | .decPlen => 0x24#8
  | .genCfg => 0x30#8
  | .genRate => 0x31#8
  | .genStatus => 0x32#8
  | .genWptr => 0x33#8
  | .genRateOut => 0x34#8
  | .parStatus => 0x40#8
  | .parVersion => 0x41#8
  | .parMachine => 0x42#8
  | .parVideo => 0x43#8
  | .parBps => 0x44#8
  | .parRate => 0x45#8
  | .parDataLen => 0x46#8
  | .parOffset => 0x47#8
  | .parBufLen => 0x48#8
  | .parReserved => 0x49#8

/-- The register of a number; none for an unassigned one (10_state.md R105, R106). -/
def regOfNumber (r : Byte) : Option Reg :=
  match r.toNat with
  | 0x10 => some .encCtrl
  | 0x11 => some .encSens
  | 0x12 => some .encMinDur
  | 0x13 => some .encThresh
  | 0x14 => some .encStatus
  | 0x15 => some .encCount
  | 0x16 => some .encLevel
  | 0x20 => some .decCtrl
  | 0x21 => some .decVolume
  | 0x22 => some .decStatus
  | 0x23 => some .decRem
  | 0x24 => some .decPlen
  | 0x30 => some .genCfg
  | 0x31 => some .genRate
  | 0x32 => some .genStatus
  | 0x33 => some .genWptr
  | 0x34 => some .genRateOut
  | 0x40 => some .parStatus
  | 0x41 => some .parVersion
  | 0x42 => some .parMachine
  | 0x43 => some .parVideo
  | 0x44 => some .parBps
  | 0x45 => some .parRate
  | 0x46 => some .parDataLen
  | 0x47 => some .parOffset
  | 0x48 => some .parBufLen
  | 0x49 => some .parReserved
  | _ => none

/-- ENC_CTRL `INVERT`, bit 0 (10_state.md R110). -/
def encInvert (ctrl : Word) : Bool := ctrl.getLsbD 0

/-- ENC_CTRL `HALF`, bit 1 (10_state.md R110). -/
def encHalf (ctrl : Word) : Bool := ctrl.getLsbD 1

/-- ENC_CTRL `TRIG`, bit 2: falling turns are boundaries (10_state.md R110). -/
def encTrigFalling (ctrl : Word) : Bool := ctrl.getLsbD 2

/-- ENC_SENS `SENS`, bits 6:0 (10_state.md R111). -/
def encSensField (sens : Word) : Nat := (sens.extractLsb' 0 7).toNat

/-- DEC_CTRL `SHAPE`, bits 1:0 (10_state.md R120). -/
def decShape (ctrl : Word) : Nat := (ctrl.extractLsb' 0 2).toNat

/-- DEC_CTRL `INVERT`, bit 2 (10_state.md R120). -/
def decInvert (ctrl : Word) : Bool := ctrl.getLsbD 2

/-- DEC_CTRL `HALF`, bit 3 (10_state.md R120). -/
def decHalf (ctrl : Word) : Bool := ctrl.getLsbD 3

/-- DEC_VOLUME `VOL`, bits 30:0 (10_state.md R121). -/
def decVol (volume : Word) : Nat := (volume.extractLsb' 0 31).toNat

/-- GEN_CFG `FORMAT`, bit 0: DMP (10_state.md R130). -/
def genFormatDmp (cfg : Word) : Bool := cfg.getLsbD 0

/-- GEN_CFG `HALF`, bit 1 (10_state.md R130). -/
def genHalf (cfg : Word) : Bool := cfg.getLsbD 1

/-- GEN_CFG `FORCE_V0`, bit 2 (10_state.md R130). -/
def genForceV0 (cfg : Word) : Bool := cfg.getLsbD 2

/-- GEN_CFG `MACHINE`, bits 5:4 (10_state.md R130). -/
def genMachineField (cfg : Word) : Nat := (cfg.extractLsb' 4 2).toNat

/-- GEN_CFG `VIDEO`, bit 6 (10_state.md R130). -/
def genVideoField (cfg : Word) : Config.VideoStd := if cfg.getLsbD 6 then .ntsc else .pal

/-- GEN_CFG `BPS`, bits 13:8 (10_state.md R130). -/
def genBps (cfg : Word) : Nat := (cfg.extractLsb' 8 6).toNat

end Sys2Proof.Machine
end

