-- ==== Sys2Proof/Machine/Flags.lean ====
section
/-! DEFINITION. The status codes (60_exceptions.md R902) and the status registers, which hold the block's flags
(10_state.md R114, R122, R132, R140, R145). -/

namespace Sys2Proof.Machine

/-- The 8-bit code of a status (60_exceptions.md R902). -/
def statusCode : Status → Byte
  | .ok => 0x00#8
  | .needMore => 0x01#8
  | .endOfStream => 0x02#8
  | .illegalCmd => 0x10#8
  | .badReg => 0x11#8
  | .badState => 0x12#8
  | .busy => 0x13#8
  | .invalidHeader => 0x20#8
  | .invalidField => 0x21#8
  | .pulseOverflow => 0x22#8
  | .truncatedAtEos => 0x23#8
  | .unsupportedConfig => 0x30#8
  | .zeroPulse => 0x31#8
  | .counterOverflow => 0x32#8
  | .lengthOverflow => 0x33#8

/-- The statuses of class "refusal" (60_exceptions.md R902). -/
def isRefusal : Status → Bool
  | .illegalCmd | .badReg | .badState | .busy => true
  | _ => false

/-- A flag at bit `i` of a status register. -/
def flagAt (i : Nat) (b : Bool) : Nat := if b then 2 ^ i else 0

/-- ENC_STATUS `MODE` (10_state.md R114). -/
def encModeCode : EncMode → Nat
  | .running => 0
  | .ended => 1
  | .faulted => 2

/-- ENC_STATUS (10_state.md R114). -/
def encStatusWord (e : Enc) : Word :=
  natWord (flagAt 0 e.armed + 2 * encModeCode e.mode + flagAt 3 (e.dir == .down) + flagAt 4 e.fCntOvf)

/-- DEC_STATUS (10_state.md R122). -/
def decStatusWord (d : Dec) : Word :=
  natWord (flagAt 0 (decide (0 < d.rem)) + flagAt 1 (d.mode == .faulted) + flagAt 2 d.fZero
    + flagAt 3 (d.nextSign == .neg) + flagAt 4 d.curHalf)

/-- GEN_STATUS `STATE` (10_state.md R132). -/
def genModeCode : GenMode → Nat
  | .idle => 0
  | .writing => 1
  | .done => 2
  | .faulted => 3

/-- GEN_STATUS `PROFILE` (10_state.md R132). -/
def profileCode : Profile → Nat
  | .tapV0 => 0
  | .tapV1 => 1
  | .tapV2 => 2
  | .dmp _ => 3

/-- GEN_STATUS (10_state.md R132). -/
def genStatusWord (g : Gen) : Word :=
  natWord (genModeCode g.mode + flagAt 2 g.lossy + flagAt 3 g.fUnsupported + flagAt 4 g.fZero + flagAt 5 g.fLength
    + 2 ^ 6 * profileCode g.profile + 2 ^ 8 * g.version.toNat)

/-- PAR_STATUS `STATE` (10_state.md R140). -/
def parModeCode : ParMode → Nat
  | .awaitingHeader => 0
  | .streamingPulses => 1
  | .invalid => 2
  | .done => 3

/-- PAR_STATUS `ERR` (10_state.md R140). -/
def parErrCode : ParErr → Nat
  | .none => 0
  | .badSignature => 1
  | .badVersion => 2
  | .badMachine => 3
  | .badVideo => 4
  | .badBps => 5
  | .headerTruncated => 6
  | .badField => 7
  | .pulseOverflow => 8

/-- PAR_STATUS (10_state.md R140). -/
def parStatusWord (p : Par) : Word :=
  natWord (parModeCode p.mode + 2 ^ 4 * parErrCode p.err + flagAt 8 p.eos + flagAt 9 p.trailing + flagAt 10 p.halfWaves
    + flagAt 11 (p.format == .dmp) + flagAt 12 (p.family == .c16))

end Sys2Proof.Machine
end

