-- ==== Sys2Proof/Machine/Ops.lean ====
section
/-! DEFINITION. The operations the commands share: ending a command (00_scope.md R13), raising a fault
(60_exceptions.md R910 to R917) and leaving it by a unit reset (R927), reading and writing registers (10_state.md
R105 to R143), and the byte operations on the input buffer and the sink (20_memory.md R202 to R206). -/

namespace Sys2Proof.Machine

/-- End the command with a status and the words it emitted (30_encoding.md R320). -/
def respond (st : Status) (words : List Word) (s : State) : Host.Outcome State Fault Refusal :=
  .next { s with response := ⟨st, words⟩ }

/-- `refuse st`: end the command with no state written and no words (00_scope.md R13, 60_exceptions.md R905). -/
def refuse (st : Status) (s : State) : Host.Outcome State Fault Refusal :=
  respond st [] s

/-- The faults a command raises (60_exceptions.md R910 to R917), the unit named where two units raise one. -/
inductive UnitFault where
  /-- `ENC.SAMPLE` with a full counter (R912). -/
  | counterOverflow
  /-- `DEC.PULSE 0` (R913). -/
  | decZeroPulse
  /-- `GEN.PULSE 0` (R913). -/
  | genZeroPulse
  /-- `GEN.START` on a configuration that names no stream (R910). -/
  | unsupportedConfig
  /-- `GEN.START` or `GEN.PULSE` past the sink or the TAP length field (R914). -/
  | lengthOverflow
  /-- `PAR.BYTE` or `PAR.EOS` with a bad or truncated header (R915). -/
  | invalidHeader (err : ParErr)
  /-- `PAR.PULL` on a field above its sentinel (R916). -/
  | invalidField
  /-- `PAR.PULL` on a pulse above `PULSE_MAX` (R916). -/
  | pulseOverflow
  /-- `PAR.PULL` on the prefix of a pulse at the end of input (R917). -/
  | truncatedAtEos
deriving DecidableEq, Repr

/-- The status a fault reports (60_exceptions.md R902). -/
def faultStatus : UnitFault → Status
  | .counterOverflow => .counterOverflow
  | .decZeroPulse => .zeroPulse
  | .genZeroPulse => .zeroPulse
  | .unsupportedConfig => .unsupportedConfig
  | .lengthOverflow => .lengthOverflow
  | .invalidHeader _ => .invalidHeader
  | .invalidField => .invalidField
  | .pulseOverflow => .pulseOverflow
  | .truncatedAtEos => .truncatedAtEos

/-- The writes the raise itself makes: the fault bit or error code and the unit's mode (60_exceptions.md R910 to
R917). Nothing else changes (R926). -/
def faultEffect (f : UnitFault) (s : State) : State :=
  match f with
  | .counterOverflow => { s with enc := { s.enc with fCntOvf := true, mode := .faulted } }
  | .decZeroPulse => { s with dec := { s.dec with fZero := true, mode := .faulted } }
  | .genZeroPulse => { s with gen := { s.gen with fZero := true, mode := .faulted } }
  | .unsupportedConfig => { s with gen := { s.gen with fUnsupported := true, mode := .faulted } }
  | .lengthOverflow => { s with gen := { s.gen with fLength := true, mode := .faulted } }
  | .invalidHeader err => { s with par := { s.par with err := err, mode := .invalid } }
  | .invalidField => { s with par := { s.par with err := .badField, mode := .invalid } }
  | .pulseOverflow => { s with par := { s.par with err := .pulseOverflow, mode := .invalid } }
  | .truncatedAtEos => { s with par := { s.par with trailing := true, mode := .done } }

/-- `raise f`: apply the fault's effect to the state as written so far and end the command with its status
(00_scope.md R13, R14). No command has emitted a word when it raises: notes/assumptions/12.md. -/
def raise (f : UnitFault) (s : State) : Host.Outcome State Fault Refusal :=
  respond (faultStatus f) [] (faultEffect f s)

/-- ENC after `ENC.RESET`: the unit state of 10_state.md R117 at its reset values, the configuration registers kept
(41_encoder.md R525, 40_control.md R406). -/
def encUnitReset (e : Enc) : Enc :=
  { encReset with ctrl := e.ctrl, sens := e.sens, minDur := e.minDur, thresh := e.thresh }

/-- DEC after `DEC.RESET` (42_decoder.md R620, 40_control.md R406). -/
def decUnitReset (d : Dec) : Dec :=
  { decReset with ctrl := d.ctrl, volume := d.volume }

/-- GEN after `GEN.RESET` (44_framing.md R848, 40_control.md R406). -/
def genUnitReset (g : Gen) : Gen :=
  { genReset with cfg := g.cfg, rateReg := g.rateReg }

/-- `gen.wptr`, the length of the sink (10_state.md R135, 20_memory.md R205). -/
def genWptr (g : Gen) : Nat := g.sink.length

/-- A direction reversed (41_encoder.md R516). -/
def oppositeDir : Dir → Dir
  | .up => .down
  | .down => .up

/-- ENC_CTRL as a write stores it: bits 2:0 (10_state.md R110). -/
def legalEncCtrl (v : Word) : Word := v &&& 0x7#32

/-- ENC_SENS as a write stores it: `min(v[6:0], 100)` (10_state.md R111). -/
def legalEncSens (v : Word) : Word := natWord (min (encSensField v) 100)

/-- DEC_CTRL as a write stores it: bits 3:0, `SHAPE` 3 as 0 (10_state.md R120). -/
def legalDecCtrl (v : Word) : Word :=
  if decShape v = 3 then v &&& 0xC#32 else v &&& 0xF#32

/-- DEC_VOLUME as a write stores it: bits 30:0 (10_state.md R121). -/
def legalDecVolume (v : Word) : Word := v &&& 0x7FFFFFFF#32

/-- GEN_CFG as a write stores it: bits 13:8, 6:4 and 2:0 (10_state.md R130). -/
def legalGenCfg (v : Word) : Word := v &&& 0x3F77#32

/-- A write of ENC_CTRL: a change of `INVERT` while armed carries the detector state into the new polarity
(41_encoder.md R516). -/
def writeEncCtrl (v : Word) (e : Enc) : Enc :=
  let ctrl := legalEncCtrl v
  if e.armed && (encInvert e.ctrl != encInvert ctrl) then
    { e with ctrl := ctrl, ext := -e.ext, dir := oppositeDir e.dir }
  else
    { e with ctrl := ctrl }

/-- Write a register; none for a read-only one (10_state.md R107, 40_control.md R402). -/
def writeReg (r : Reg) (v : Word) (s : State) : Option State :=
  match r with
  | .encCtrl => some { s with enc := writeEncCtrl v s.enc }
  | .encSens => some { s with enc := { s.enc with sens := legalEncSens v } }
  | .encMinDur => some { s with enc := { s.enc with minDur := v } }
  | .encThresh => some { s with enc := { s.enc with thresh := v } }
  | .decCtrl => some { s with dec := { s.dec with ctrl := legalDecCtrl v } }
  | .decVolume => some { s with dec := { s.dec with volume := legalDecVolume v } }
  | .genCfg => some { s with gen := { s.gen with cfg := legalGenCfg v } }
  | .genRate => some { s with gen := { s.gen with rateReg := v } }
  | .encStatus => none
  | .encCount => none
  | .encLevel => none
  | .decStatus => none
  | .decRem => none
  | .decPlen => none
  | .genStatus => none
  | .genWptr => none
  | .genRateOut => none
  | .parStatus => none
  | .parVersion => none
  | .parMachine => none
  | .parVideo => none
  | .parBps => none
  | .parRate => none
  | .parDataLen => none
  | .parOffset => none
  | .parBufLen => none
  | .parReserved => none

/-- The value of a register: an RW register as stored, an RO register computed from the unit state (10_state.md R107
and each register's rule). -/
def readReg (r : Reg) (s : State) : Word :=
  match r with
  | .encCtrl => s.enc.ctrl
  | .encSens => s.enc.sens
  | .encMinDur => s.enc.minDur
  | .encThresh => s.enc.thresh
  | .encStatus => encStatusWord s.enc
  | .encCount => natWord s.enc.count
  | .encLevel => saturated s.enc.level
  | .decCtrl => s.dec.ctrl
  | .decVolume => s.dec.volume
  | .decStatus => decStatusWord s.dec
  | .decRem => natWord s.dec.rem
  | .decPlen => natWord s.dec.plen
  | .genCfg => s.gen.cfg
  | .genRate => s.gen.rateReg
  | .genStatus => genStatusWord s.gen
  | .genWptr => saturated (genWptr s.gen)
  | .genRateOut => s.gen.rate
  | .parStatus => parStatusWord s.par
  | .parVersion => s.par.version.setWidth 32
  | .parMachine => s.par.machine.setWidth 32
  | .parVideo => s.par.video.setWidth 32
  | .parBps => s.par.bps.setWidth 32
  | .parRate => s.par.rate
  | .parDataLen => s.par.dataLen
  | .parOffset => saturated s.par.cur
  | .parBufLen => saturated s.par.buf.length
  | .parReserved => s.par.reserved.setWidth 32

/-- One byte of a byte sequence; none at or past its end. `BufByte` is this on the input buffer (20_memory.md R203),
and the host's read of the sink is this on the sink (R205). -/
def readByte (bytes : List Byte) (i : Nat) : Option Byte := bytes[i]?

/-- The host's read of the sink byte at an offset (20_memory.md R205). -/
def sinkByte (s : State) (i : Nat) : Option Byte := readByte s.gen.sink i

/-- The input-buffer byte at an offset (20_memory.md R203). -/
def bufByte (s : State) (i : Nat) : Option Byte := readByte s.par.buf i

/-- `SinkWrite(off, bytes)` with `off` at most the length: the bytes from `off` on are replaced and the sink grows to
hold them (20_memory.md R206). -/
def sinkWrite (sink : List Byte) (off : Nat) (bytes : List Byte) : List Byte :=
  sink.take off ++ bytes ++ sink.drop (off + bytes.length)

/-- Whether `n` bytes exceed a capacity; `none` is unbounded (20_memory.md R206). -/
def exceedsCap (cap : Option Nat) (n : Nat) : Bool :=
  match cap with
  | none => false
  | some c => decide (c < n)

/-- Whether the input buffer holds `PAR_BUF_CAP` unconsumed bytes (20_memory.md R204). -/
def parBufFull (params : Config.Params) (p : Par) : Bool :=
  params.parBufCap == some (p.buf.length - p.cur)

/-- The (address, byte) cells of a byte sequence that starts at address `a` (20_memory.md R201). -/
def cellsFrom (a : Nat) : List Byte → List Host.Cell
  | [] => []
  | b :: rest => (a, b) :: cellsFrom (a + 1) rest

/-- The canonical form of a list of cells: addresses strictly rising. An unlisted address holds no byte, so no entry
equals what it reads as. -/
def Memory.wf (cells : List Host.Cell) : Bool :=
  match cells with
  | [] => true
  | (a, _) :: rest => rest.all (fun c => decide (a < c.1)) && Memory.wf rest

/-- What a list of cells holds at an address (notes/assumptions/9.md). -/
def Memory.read (cells : List Host.Cell) (a : Nat) : Option Byte :=
  match cells with
  | [] => none
  | (x, b) :: rest => if x = a then some b else Memory.read rest a

end Sys2Proof.Machine
end

