-- ==== Sys2Proof/Machine/Control.lean ====
section
/-! DEFINITION. The block commands NOP, CFG.WR, CFG.RD and RESET (40_control.md), accepted in every mode of every unit
(R407). -/

namespace Sys2Proof.Machine

/-- `NOP` (40_control.md R401). -/
def execNop (s : State) : Host.Outcome State Fault Refusal :=
  respond .ok [] s

/-- `CFG.WR`: refused with `BAD_REG` for an unassigned or read-only register (40_control.md R402). -/
def execCfgWr (reg : Byte) (value : Word) (s : State) : Host.Outcome State Fault Refusal :=
  match (regOfNumber reg).bind (fun r => writeReg r value s) with
  | some s' => respond .ok [] s'
  | none => refuse .badReg s

/-- `CFG.RD`: refused with `BAD_REG` for an unassigned register (40_control.md R403). -/
def execCfgRd (reg : Byte) (s : State) : Host.Outcome State Fault Refusal :=
  match regOfNumber reg with
  | some r => respond .ok [readReg r s] s
  | none => refuse .badReg s

/-- `RESET`: every register and every unit at its reset value (40_control.md R405). The commands still in the port are
the host's and stay, and the parameters are the block's own (notes/assumptions/1.md, notes/assumptions/3.md). -/
def execReset (s : State) : Host.Outcome State Fault Refusal :=
  respond .ok [] { s with enc := encReset, dec := decReset, gen := genReset, par := parReset }

end Sys2Proof.Machine
end

