-- ==== Sys2Proof/Machine/Decoder.lean ====
section
/-! DEFINITION. DEC, the pulse-to-sample decoder (42_decoder.md): DEC.PULSE, DEC.PULL, DEC.RESET and the waveform. -/

namespace Sys2Proof.Machine

/-- The opposite level sign (42_decoder.md R602). -/
def oppositeSign : Sign → Sign
  | .pos => .neg
  | .neg => .pos

/-- A level sign times a magnitude (42_decoder.md R606). -/
def signed : Sign → Int → Int
  | .pos, v => v
  | .neg, v => -v

/-- A segment of a pulse: a ramp from `start` to `stop` of `len` samples, of which this is number `index`, with the
square level `level`: the tuple `(from, to, j, L, lvl)` of 42_decoder.md R606. -/
structure Segment where
  start : Int
  stop : Int
  index : Nat
  len : Nat
  level : Int
deriving DecidableEq, Repr

/-- `V`, the peak magnitude (42_decoder.md R606, 10_state.md R121). -/
def decPeak (d : Dec) : Int := (decVol d.volume : Int)

/-- The segment of output sample `k` of the current pulse (42_decoder.md R606). -/
def decSegment (d : Dec) (k : Nat) : Segment :=
  let v := decPeak d
  if d.curHalf then
    { start := -signed d.curSign v, stop := signed d.curSign v, index := k, len := d.plen, level := signed d.curSign v }
  else
    let h := d.plen / 2
    if k < h then { start := -v, stop := v, index := k, len := h, level := v }
    else { start := v, stop := -v, index := k - h, len := d.plen - h, level := -v }

/-- The triangle value of a segment's sample (42_decoder.md R610). -/
def triangleValue (g : Segment) : Int :=
  g.start + Int.tdiv ((g.stop - g.start) * ((g.index : Int) + 1)) (g.len : Int)

/-- `SINE_RAMP(from, to, j, L)`: the free function under the constraints of 42_decoder.md R612, its value between the
two ends and the last sample at `to` (notes/assumptions/6.md). -/
def sineRamp (start stop : Int) (index len : Nat) : Int :=
  if index + 1 = len then stop
  else max (min start stop) (min (max start stop) (Config.sineRampFree start stop index len))

/-- The value of a segment's sample under a shape, before inversion (42_decoder.md R607, R608, R610, R612). -/
def shapeValue (params : Config.Params) (shape : Nat) (g : Segment) : Int :=
  if shape = 1 then triangleValue g
  else if shape = 2 ∧ params.sineSupported = true then sineRamp g.start g.stop g.index g.len
  else g.level

/-- `out(k)` (42_decoder.md R607). -/
def decOut (params : Config.Params) (d : Dec) (k : Nat) : Int :=
  let v := shapeValue params (decShape d.ctrl) (decSegment d k)
  if decInvert d.ctrl then -v else v

/-- The loop of `DEC.PULL`: `m` samples from the current pulse, each at the index `plen - rem` (42_decoder.md R604). -/
def decPullLoop (params : Config.Params) : Nat → Dec → List Word × Dec
  | 0, d => ([], d)
  | m + 1, d =>
    let (words, d') := decPullLoop params m { d with rem := d.rem - 1 }
    (sampleWord params (decOut params d (d.plen - d.rem)) :: words, d')

/-- `DEC.PULSE` (42_decoder.md R602). -/
def execDecPulse (pulse : Word) (s : State) : Host.Outcome State Fault Refusal :=
  if s.dec.mode ≠ .running then refuse .badState s
  else if 0 < s.dec.rem then refuse .busy s
  else if pulseOperand s.params pulse = 0 then raise .decZeroPulse s
  else
    let p := pulseOperand s.params pulse
    let d : Dec := { s.dec with plen := p, rem := p, curHalf := decHalf s.dec.ctrl }
    if decHalf s.dec.ctrl then
      respond .ok [] { s with dec := { d with curSign := d.nextSign, nextSign := oppositeSign d.nextSign } }
    else
      respond .ok [] { s with dec := d }

/-- `DEC.PULL` (42_decoder.md R604). -/
def execDecPull (count : Word) (s : State) : Host.Outcome State Fault Refusal :=
  if s.dec.mode ≠ .running then refuse .badState s
  else
    let (words, d) := decPullLoop s.params (min count.toNat s.dec.rem) s.dec
    respond .ok words { s with dec := d }

/-- `DEC.RESET` (42_decoder.md R620). -/
def execDecReset (s : State) : Host.Outcome State Fault Refusal :=
  respond .ok [] { s with dec := decUnitReset s.dec }

end Sys2Proof.Machine
end

