-- ==== Sys2Proof/Machine/Encoder.lean ====
section
/-! DEFINITION. ENC, the edge-detector pulse encoder (41_encoder.md): ENC.SAMPLE, ENC.FLUSH, ENC.RESET. -/

namespace Sys2Proof.Machine

/-- The detector's input `x`, negated when ENC_CTRL `INVERT` is 1, an exact integer (41_encoder.md R503). -/
def encInput (params : Config.Params) (e : Enc) (sample : Word) : Int :=
  if encInvert e.ctrl then -sampleOperand params sample else sampleOperand params sample

/-- A change of the tracked direction (41_encoder.md R509). -/
inductive Turn where
  | rising
  | falling
deriving DecidableEq, Repr

/-- The hysteresis test on an excursion: `200 * e >= (100 - SENS) * level` (41_encoder.md R509). -/
def encAccepts (e : Enc) (excursion : Nat) : Bool :=
  decide ((100 - encSensField e.sens) * e.level ≤ 200 * excursion)

/-- Arming by an input (41_encoder.md R507). -/
def encArm (e : Enc) (x : Int) : Enc :=
  if e.thresh.toNat < x.natAbs then
    { e with armed := true, dir := if 0 < x then .up else .down, ext := x, level := e.thresh.toNat }
  else e

/-- The detector while it tracks a maximum (41_encoder.md R509). -/
def encTrackUp (e : Enc) (x : Int) : Enc × Option Turn :=
  if e.ext ≤ x then ({ e with ext := x }, none)
  else
    let excursion := (e.ext - x).toNat
    if encAccepts e excursion then ({ e with dir := .down, ext := x, level := excursion }, some .falling)
    else (e, none)

/-- The detector while it tracks a minimum (41_encoder.md R509). -/
def encTrackDown (e : Enc) (x : Int) : Enc × Option Turn :=
  if x ≤ e.ext then ({ e with ext := x }, none)
  else
    let excursion := (x - e.ext).toNat
    if encAccepts e excursion then ({ e with dir := .up, ext := x, level := excursion }, some .rising)
    else (e, none)

/-- The detector on one input: the unit after it and the turn it makes (41_encoder.md R505, R507, R509). -/
def encDetect (e : Enc) (x : Int) : Enc × Option Turn :=
  if e.armed then
    match e.dir with
    | .up => encTrackUp e x
    | .down => encTrackDown e x
  else (encArm e x, none)

/-- Whether a turn is a boundary (41_encoder.md R510). -/
def encBoundary (ctrl : Word) : Option Turn → Bool
  | none => false
  | some .rising => encHalf ctrl || !encTrigFalling ctrl
  | some .falling => encHalf ctrl || encTrigFalling ctrl

/-- Whether the boundary emits: the run is not shorter than ENC_MINDUR (41_encoder.md R511). -/
def encEmits (e : Enc) (turn : Option Turn) : Bool :=
  encBoundary e.ctrl turn && decide (e.minDur.toNat ≤ e.count)

/-- Count the sample: raise `COUNTER_OVERFLOW` on a full counter, else add 1 (41_encoder.md R512). -/
def encCountSample (words : List Word) (s : State) : Host.Outcome State Fault Refusal :=
  if s.enc.count = Config.cntMax s.params then raise .counterOverflow s
  else respond .ok words { s with enc := { s.enc with count := s.enc.count + 1 } }

/-- `ENC.SAMPLE` (41_encoder.md R505). A count above `PULSE_MAX`, which only a W_PULSE below W_CNT allows, is emitted
uncut: DESIGN CHOICE, unsafe at such widths only, notes/assumptions/4.md. -/
def execEncSample (sample : Word) (s : State) : Host.Outcome State Fault Refusal :=
  if s.enc.mode ≠ .running then refuse .badState s
  else
    let (e, turn) := encDetect s.enc (encInput s.params s.enc sample)
    if encEmits e turn then
      encCountSample [natWord e.count] { s with enc := { e with count := 0 } }
    else
      encCountSample [] { s with enc := e }

/-- `ENC.FLUSH` (41_encoder.md R520), its count emitted as by `execEncSample` (notes/assumptions/4.md). -/
def execEncFlush (s : State) : Host.Outcome State Fault Refusal :=
  if s.enc.mode ≠ .running then refuse .badState s
  else
    let words := if s.enc.armed && decide (0 < s.enc.count) then [natWord s.enc.count] else []
    respond .ok words { s with enc := { s.enc with count := 0, mode := .ended } }

/-- `ENC.RESET` (41_encoder.md R525). -/
def execEncReset (s : State) : Host.Outcome State Fault Refusal :=
  respond .ok [] { s with enc := encUnitReset s.enc }

end Sys2Proof.Machine
end

