-- ==== Sys2Proof/Machine/Overflow.lean ====
section
/-! DEFINITION. OVF, the variable-width overflow codec (43_overflow_codec.md): pure functions between one pulse and
its bytes under a profile, at the parameters of the block (R705). -/

namespace Sys2Proof.Machine

/-- `S = 2^b - 1`, the DMP sentinel, a mathematical value (43_overflow_codec.md R705, 93_implementation_defined.md
G3). -/
def dmpSentinel (b : Nat) : Nat := 2 ^ b - 1

/-- `N = (b + 7) div 8`, the bytes of a DMP field (43_overflow_codec.md R705). -/
def dmpFieldBytes (b : Nat) : Nat := (b + 7) / 8

/-- A field written `n` times. -/
def repeatField (n : Nat) (field : List Byte) : List Byte := (List.replicate n field).flatten

/-- The TAP v1/v2 wide field of `w`: the marker byte and three bytes (30_encoding.md R333). At a `w` of `2^24` or more,
for which `LE_3` has no value (00_scope.md R12), the low 24 bits: DESIGN CHOICE, unsafe, notes/assumptions/4.md. -/
def tapWideField (w : Nat) : List Byte := 0#8 :: leBytes 3 w

/-- The final field of a TAP v1/v2 pulse: narrow for a multiple of 8 up to `0x7F * 8`, else wide
(43_overflow_codec.md R710). At a TAP_WIDE_SENTINEL above `2^24` or of 0 the remainder `p` can be `2^24` or more: it is
written as its low 24 bits and reported exact, DESIGN CHOICE, unsafe, notes/assumptions/4.md and 19.md. -/
def tapFinalField (params : Config.Params) (p : Nat) : List Byte :=
  if p % params.tapScale = 0 ∧ 1 ≤ p / params.tapScale ∧ p / params.tapScale ≤ 0x7F then
    [BitVec.ofNat 8 (p / params.tapScale)]
  else
    tapWideField p

/-- `OvfEncode(TAPv1 or TAPv2, p)` (43_overflow_codec.md R710). The rule's loop subtracts the sentinel
`p div 0xFFFFFF` times: `Laws.encodeTapV1_loop`. -/
def encodeTapV1 (params : Config.Params) (p : Nat) : List Byte :=
  repeatField (p / params.tapWideSentinel) (tapWideField params.tapWideSentinel)
    ++ tapFinalField params (p % params.tapWideSentinel)

/-- `OvfEncode(DMP(b), p)` (43_overflow_codec.md R714). The rule's loop subtracts the sentinel `p div S` times:
`Laws.encodeDmp_loop`. -/
def encodeDmp (b p : Nat) : List Byte :=
  repeatField (p / dmpSentinel b) (leBytes (dmpFieldBytes b) (dmpSentinel b))
    ++ leBytes (dmpFieldBytes b) (p % dmpSentinel b)

/-- `OvfEncode(TAPv0, p)` with the flag `exact` (43_overflow_codec.md R712). At a `V0_ZERO_VALUE` of 0, where the rule
divides by 0 and 00_scope.md R10 gives no value, Lean's `p / 0 = 0` writes one zero byte: DESIGN CHOICE, unsafe,
notes/assumptions/19.md. -/
def encodeTapV0 (params : Config.Params) (p : Nat) : List Byte × Bool :=
  let q := p / params.tapScale
  if 1 ≤ q ∧ q ≤ 0xFF then
    ([BitVec.ofNat 8 q], decide (p % params.tapScale = 0))
  else if q = 0 then
    ([1#8], false)
  else
    let n := max 1 (p / params.v0ZeroValue)
    (List.replicate n 0#8, decide (p = n * params.v0ZeroValue))

/-- `OvfEncode(profile, p)`: the bytes and the flag `exact`; for `p` at least 1 (43_overflow_codec.md R710, R712, R714,
R716). -/
def ovfEncode (params : Config.Params) (profile : Profile) (p : Nat) : List Byte × Bool :=
  match profile with
  | .tapV0 => encodeTapV0 params p
  | .tapV1 => (encodeTapV1 params p, true)
  | .tapV2 => (encodeTapV1 params p, true)
  | .dmp b => (encodeDmp b p, true)

/-- The codes of an invalid pulse: 7 (bad field) and 8 (pulse overflow) (43_overflow_codec.md R720). -/
inductive OvfError where
  | badField
  | pulseOverflow
deriving DecidableEq, Repr

/-- The outcomes of `OvfDecode` (43_overflow_codec.md R720). -/
inductive OvfOutcome where
  /-- The bytes up to offset `next` are one pulse of value `value`. -/
  | pulse (value next : Nat)
  /-- The bytes up to offset `next` are one pulse of value 0 (R734). -/
  | skip (next : Nat)
  /-- The bytes are a proper prefix of a pulse. -/
  | needMore
  /-- The bytes cannot begin a pulse. -/
  | invalid (err : OvfError)
deriving DecidableEq, Repr

/-- `final(acc, j)` (43_overflow_codec.md R722). -/
def ovfFinal (params : Config.Params) (acc next : Nat) : OvfOutcome :=
  if Config.pulseMax params < acc then .invalid .pulseOverflow
  else if acc = 0 then .skip next
  else .pulse acc next

/-- One field at the head of the bytes, as the general decoding rule reads it (43_overflow_codec.md R702). -/
inductive Field where
  /-- The field is not complete. -/
  | incomplete
  /-- The field's value has no meaning (R730). -/
  | bad
  /-- An overflow continuation of `size` bytes that adds `value`. -/
  | continues (value size : Nat)
  /-- The final field, of `size` bytes, that adds `value` after scaling. -/
  | last (value size : Nat)
deriving DecidableEq, Repr

/-- A TAP v1/v2 field (43_overflow_codec.md R722, 30_encoding.md R333). -/
def tapV1Field (params : Config.Params) (bytes : List Byte) : Field :=
  match bytes with
  | [] => .incomplete
  | b :: rest =>
    if b ≠ 0#8 then .last (params.tapScale * b.toNat) 1
    else if rest.length < 3 then .incomplete
    else
      let w := fromLE (rest.take 3)
      if w = params.tapWideSentinel then .continues w 4 else .last w 4

/-- A DMP field (43_overflow_codec.md R730, 30_encoding.md R335). -/
def dmpField (b : Nat) (bytes : List Byte) : Field :=
  if bytes.length < dmpFieldBytes b then .incomplete
  else
    let w := fromLE (bytes.take (dmpFieldBytes b))
    if dmpSentinel b < w then .bad
    else if w = dmpSentinel b then .continues w (dmpFieldBytes b)
    else .last w (dmpFieldBytes b)

/-- The loop of `OvfDecode` over fields: sum continuations until a final field, the accumulator compared with
`PULSE_MAX` after every addition (43_overflow_codec.md R702, R722, R730, R732). `next` is the offset of `bytes`. A
continuation is at least one byte, so `bytes.length` rounds are enough (`Laws.ovfFields_fuel`) and with none left no
byte is. -/
def ovfFields (params : Config.Params) (field : List Byte → Field) : Nat → Nat → List Byte → Nat → OvfOutcome
  | 0, _, _, _ => .needMore
  | fuel + 1, acc, bytes, next =>
    match field bytes with
    | .incomplete => .needMore
    | .bad => .invalid .badField
    | .last value size => ovfFinal params (acc + value) (next + size)
    | .continues value size =>
      if Config.pulseMax params < acc + value then .invalid .pulseOverflow
      else ovfFields params field fuel (acc + value) (bytes.drop size) (next + size)

/-- The length of the run of zero bytes at the head (43_overflow_codec.md R725). -/
def zeroRun : List Byte → Nat
  | [] => 0
  | b :: rest => if b = 0#8 then zeroRun rest + 1 else 0

/-- `OvfDecode(TAPv0, i, eos)` on the bytes from offset `next` on (43_overflow_codec.md R725). -/
def decodeTapV0 (params : Config.Params) (bytes : List Byte) (next : Nat) (eos : Bool) : OvfOutcome :=
  match bytes with
  | [] => .needMore
  | b :: _ =>
    if b ≠ 0#8 then ovfFinal params (params.tapScale * b.toNat) (next + 1)
    else if Config.pulseMax params < zeroRun bytes * params.v0ZeroValue then .invalid .pulseOverflow
    else if zeroRun bytes = bytes.length ∧ eos = false then .needMore
    else ovfFinal params (zeroRun bytes * params.v0ZeroValue) (next + zeroRun bytes)

/-- `OvfDecode(profile, i, eos)` on the input buffer (43_overflow_codec.md R720 to R730). -/
def ovfDecode (params : Config.Params) (profile : Profile) (buf : List Byte) (i : Nat) (eos : Bool) : OvfOutcome :=
  let bytes := buf.drop i
  match profile with
  | .tapV0 => decodeTapV0 params bytes i eos
  | .tapV1 => ovfFields params (tapV1Field params) bytes.length 0 bytes i
  | .tapV2 => ovfFields params (tapV1Field params) bytes.length 0 bytes i
  | .dmp b => ovfFields params (dmpField b) bytes.length 0 bytes i

end Sys2Proof.Machine
end

