-- ==== Sys2Proof/Machine/Framing.lean ====
section
/-! DEFINITION. The container headers: their bytes (30_encoding.md R330 to R332, 44_framing.md R841, R842), the
validation of a received one (R810 to R816) and what a valid one records (R818). -/

namespace Sys2Proof.Machine

/-- `ascii("C64-TAPE-RAW")` (30_encoding.md R332). PRESUMED by the spec (93_implementation_defined.md G1):
notes/assumptions/8.md. -/
def sigC64 : List Byte :=
  [0x43#8, 0x36#8, 0x34#8, 0x2D#8, 0x54#8, 0x41#8, 0x50#8, 0x45#8, 0x2D#8, 0x52#8, 0x41#8, 0x57#8]

/-- `ascii("C16-TAPE-RAW")` (30_encoding.md R332), notes/assumptions/8.md. -/
def sigC16 : List Byte :=
  [0x43#8, 0x31#8, 0x36#8, 0x2D#8, 0x54#8, 0x41#8, 0x50#8, 0x45#8, 0x2D#8, 0x52#8, 0x41#8, 0x57#8]

/-- `ascii("DC2N-TAP-RAW")` (30_encoding.md R332), notes/assumptions/8.md. -/
def sigDmp : List Byte :=
  [0x44#8, 0x43#8, 0x32#8, 0x4E#8, 0x2D#8, 0x54#8, 0x41#8, 0x50#8, 0x2D#8, 0x52#8, 0x41#8, 0x57#8]

/-- The TAP signature of a machine's family (44_framing.md R841). -/
def tapSignature : Config.Computer → List Byte
  | .c16 => sigC16
  | .c64 => sigC64
  | .vic20 => sigC64

/-- `TapHeader(m, v, ver, len)` (44_framing.md R841). -/
def tapHeader (m : Config.Computer) (v : Config.VideoStd) (ver : Byte) (len : Nat) : List Byte :=
  tapSignature m ++ [ver, computerCode m, videoCode v, 0#8] ++ leBytes 4 len

/-- `DmpHeader(m, v, b, r)` (44_framing.md R842). -/
def dmpHeader (m : Config.Computer) (v : Config.VideoStd) (bits : Nat) (rate : Word) : List Byte :=
  sigDmp ++ [0#8, computerCode m, videoCode v, BitVec.ofNat 8 bits] ++ leBytes 4 rate.toNat

/-- The format and family a signature selects (44_framing.md R811). -/
def signatureKind (sig : List Byte) : Option (Format × Family) :=
  if sig = sigC64 then some (.tap, .c64)
  else if sig = sigC16 then some (.tap, .c16)
  else if sig = sigDmp then some (.dmp, .c64)
  else none

/-- The version byte is in the format's set (44_framing.md R813). -/
def versionAllowed : Format → Byte → Bool
  | .tap, ver => decide (ver.toNat ≤ 2)
  | .dmp, ver => decide (ver.toNat = 0)

/-- The machine byte is in the set of the format and family (44_framing.md R812). -/
def machineAllowed : Format → Family → Byte → Bool
  | .tap, .c64, m => decide (m.toNat ≤ 1)
  | .tap, .c16, m => decide (m.toNat = 2)
  | .dmp, _, m => decide (m.toNat ≤ 2)

/-- `ValidateHeader(h)`: the format and family, or the first failing check (44_framing.md R810). -/
def validateHeader (h : List Byte) : Except ParErr (Format × Family) :=
  match signatureKind (h.take 12) with
  | none => .error .badSignature
  | some (fmt, fam) =>
    if !versionAllowed fmt (byteAt h 12) then .error .badVersion
    else if !machineAllowed fmt fam (byteAt h 13) then .error .badMachine
    else
      match fmt with
      | .tap => if (byteAt h 14).toNat ≤ 1 then .ok (fmt, fam) else .error .badVideo
      | .dmp => if 1 ≤ (byteAt h 15).toNat ∧ (byteAt h 15).toNat ≤ 32 then .ok (fmt, fam) else .error .badBps

/-- The profile of a valid TAP header's version (10_state.md R148). -/
def tapProfile (version : Byte) : Profile :=
  if version = 0#8 then .tapV0 else if version = 1#8 then .tapV1 else .tapV2

/-- The machine of a valid TAP header (10_state.md R152). -/
def headerComputer (m : Byte) : Config.Computer := (computerOfCode m.toNat).getD .c64

/-- The video standard of a valid TAP header (10_state.md R152). -/
def headerVideo (v : Byte) : Config.VideoStd := (videoOfCode v.toNat).getD .pal

/-- The little-endian word at offsets 16 to 19 of a header (30_encoding.md R330, R331), of the bytes it has there at a
HEADER_SIZE below 20: DESIGN CHOICE, unsafe, notes/assumptions/4.md. -/
def headerWord (h : List Byte) : Word := natWord (fromLE ((h.drop 16).take 4))

/-- The PAR unit after a valid header `h`, all of its bytes consumed (44_framing.md R818, 10_state.md R141, R148, R149). -/
def recordHeader (params : Config.Params) (h : List Byte) (fmt : Format) (fam : Family) (p : Par) : Par :=
  let version := byteAt h 12
  let base : Par :=
    { p with
      mode := .streamingPulses
      cur := params.headerSize
      format := fmt
      family := fam
      version := version
      machine := byteAt h 13
      video := byteAt h 14 }
  match fmt with
  | .tap =>
    { base with
      rate := rateLookup (rateDec params) (headerComputer (byteAt h 13)) (headerVideo (byteAt h 14))
      dataLen := headerWord h
      reserved := byteAt h 15
      bps := 0#8
      profile := tapProfile version
      halfWaves := tapProfile version == .tapV2 }
  | .dmp =>
    { base with
      rate := headerWord h
      dataLen := 0#32
      reserved := 0#8
      bps := byteAt h 15
      profile := .dmp (byteAt h 15).toNat
      halfWaves := false }

end Sys2Proof.Machine
end

