-- ==== Sys2Proof/Machine/Generator.lean ====
section
/-! DEFINITION. GEN, the container frame generator (44_framing.md section 4): GEN.START, GEN.PULSE, GEN.FINISH,
GEN.RESET. -/

namespace Sys2Proof.Machine

/-- What `GEN.START` latches for a supported configuration (44_framing.md R840). -/
structure StreamPlan where
  profile : Profile
  hdr : List Byte
  rate : Word
  version : Byte
  machine : Config.Computer
  video : Config.VideoStd
deriving DecidableEq, Repr

/-- The profile and version of a TAP stream by FORCE_V0 and HALF; none for both (44_framing.md R840). -/
def tapStreamVersion (forceV0 half : Bool) : Option (Profile × Byte) :=
  match forceV0, half with
  | true, true => none
  | true, false => some (.tapV0, 0#8)
  | false, true => some (.tapV2, 2#8)
  | false, false => some (.tapV1, 1#8)

/-- The TAP stream a configuration names; none when unsupported (44_framing.md R840, 60_exceptions.md R910). -/
def tapPlan (params : Config.Params) (g : Gen) (m : Config.Computer) : Option StreamPlan :=
  (tapStreamVersion (genForceV0 g.cfg) (genHalf g.cfg)).map fun (profile, version) =>
    { profile := profile
      hdr := tapHeader m (genVideoField g.cfg) version 0
      rate := rateLookup params.rateEnc m (genVideoField g.cfg)
      version := version
      machine := m
      video := genVideoField g.cfg }

/-- The DMP stream a configuration names; none when unsupported (44_framing.md R840, 60_exceptions.md R910). -/
def dmpPlan (g : Gen) (m : Config.Computer) : Option StreamPlan :=
  if genHalf g.cfg then none
  else if 1 ≤ genBps g.cfg ∧ genBps g.cfg ≤ 32 then
    some
      { profile := .dmp (genBps g.cfg)
        hdr := dmpHeader m (genVideoField g.cfg) (genBps g.cfg) g.rateReg
        rate := g.rateReg
        version := 0#8
        machine := m
        video := genVideoField g.cfg }
  else none

/-- The stream GEN_CFG and GEN_RATE name; none when unsupported (44_framing.md R840, 60_exceptions.md R910). -/
def streamPlan (params : Config.Params) (g : Gen) : Option StreamPlan :=
  match computerOfCode (genMachineField g.cfg) with
  | none => none
  | some m => if genFormatDmp g.cfg then dmpPlan g m else tapPlan params g m

/-- GEN at the start of a planned stream: the sink holds the header alone (44_framing.md R840). -/
def genStarted (g : Gen) (plan : StreamPlan) : Gen :=
  { g with
    sink := sinkWrite [] 0 plan.hdr
    profile := plan.profile
    hdr := plan.hdr
    rate := plan.rate
    version := plan.version
    machine := plan.machine
    video := plan.video
    lossy := false
    mode := .writing }

/-- `GEN.START` (44_framing.md R840). The capacity is compared with the header's 20 bytes, the ones it writes (R840,
20_memory.md R206), at every HEADER_SIZE: at one other than 20 a DESIGN CHOICE, unsafe, notes/assumptions/4.md. -/
def execGenStart (s : State) : Host.Outcome State Fault Refusal :=
  if s.gen.mode = .writing ∨ s.gen.mode = .faulted then refuse .badState s
  else
    match streamPlan s.params s.gen with
    | none => raise .unsupportedConfig s
    | some plan =>
      if exceedsCap s.params.sinkCap plan.hdr.length then raise .lengthOverflow s
      else respond .ok [] { s with gen := genStarted s.gen plan }

/-- Whether a profile is a TAP profile (44_framing.md R844). -/
def isTap : Profile → Bool
  | .tapV0 => true
  | .tapV1 => true
  | .tapV2 => true
  | .dmp _ => false

/-- Whether a TAP v0 zero run folds into the one already at the end of the sink (44_framing.md R844,
70_reset_and_hazards.md R1010). The section starts at HEADER_SIZE; below 20 the header's own last byte counts as a pulse
byte: DESIGN CHOICE, unsafe, notes/assumptions/4.md. -/
def foldsIntoLast (params : Config.Params) (g : Gen) (out : List Byte) : Bool :=
  g.profile == .tapV0 && out.head? == some 0#8 && decide (params.headerSize < genWptr g)
    && readByte g.sink (genWptr g - 1) == some 0#8

/-- Whether the pulse's bytes pass the TAP length field or the sink's capacity (44_framing.md R844). -/
def genLengthExceeded (params : Config.Params) (g : Gen) (out : List Byte) : Bool :=
  (isTap g.profile && decide (Config.tapSectionMax + params.headerSize < genWptr g + out.length))
    || exceedsCap params.sinkCap (genWptr g + out.length)

/-- `GEN.PULSE` (44_framing.md R844). -/
def execGenPulse (pulse : Word) (s : State) : Host.Outcome State Fault Refusal :=
  if s.gen.mode ≠ .writing then refuse .badState s
  else if pulseOperand s.params pulse = 0 then raise .genZeroPulse s
  else
    let (out, exact) := ovfEncode s.params s.gen.profile (pulseOperand s.params pulse)
    if genLengthExceeded s.params s.gen out then raise .lengthOverflow s
    else
      let lossless := exact && !foldsIntoLast s.params s.gen out
      respond .ok []
        { s with gen := { s.gen with
          sink := sinkWrite s.gen.sink (genWptr s.gen) out
          lossy := s.gen.lossy || !lossless } }

/-- `GEN.FINISH` (44_framing.md R846). At a HEADER_SIZE above `gen.wptr` the rule's length, `gen.wptr` less the header's
size, is negative (00_scope.md R10) and no byte pattern is given for it: the header holds the length 0, DESIGN CHOICE,
unsafe, notes/assumptions/4.md. -/
def execGenFinish (s : State) : Host.Outcome State Fault Refusal :=
  if s.gen.mode ≠ .writing then refuse .badState s
  else if isTap s.gen.profile then
    let hdr := tapHeader s.gen.machine s.gen.video s.gen.version (genWptr s.gen - s.params.headerSize)
    respond .ok []
      { s with gen := { s.gen with sink := sinkWrite s.gen.sink 0 hdr, hdr := hdr, mode := .done } }
  else
    respond .ok [] { s with gen := { s.gen with mode := .done } }

/-- `GEN.RESET` (44_framing.md R848). -/
def execGenReset (s : State) : Host.Outcome State Fault Refusal :=
  respond .ok [] { s with gen := genUnitReset s.gen }

end Sys2Proof.Machine
end

