-- ==== Sys2Proof/Machine/Parser.lean ====
section
/-! DEFINITION. PAR, the container frame parser (44_framing.md sections 1 to 3): PAR.BYTE, PAR.PULL, PAR.EOS,
PAR.RESET. -/

namespace Sys2Proof.Machine

/-- Whether the mode gate of `PAR.BYTE` and `PAR.EOS` is closed (60_exceptions.md R906). -/
def parInputClosed (p : Par) : Bool :=
  p.mode == .invalid || p.mode == .done || p.eos

/-- The header check of the `PAR.BYTE` that delivers the 20th byte, the byte already appended (44_framing.md R805,
R820). -/
def parCheckHeader (s : State) : Host.Outcome State Fault Refusal :=
  let h := s.par.buf.take s.params.headerSize
  match validateHeader h with
  | .error err => raise (.invalidHeader err) s
  | .ok (fmt, fam) => respond .ok [] { s with par := recordHeader s.params h fmt fam s.par }

/-- `PAR.BYTE` (44_framing.md R820). -/
def execParByte (byte : Byte) (s : State) : Host.Outcome State Fault Refusal :=
  if parInputClosed s.par then refuse .badState s
  else if parBufFull s.params s.par then refuse .busy s
  else
    let s' : State := { s with par := { s.par with buf := s.par.buf ++ [byte] } }
    if s'.par.mode = .awaitingHeader ∧ s'.par.buf.length = s.params.headerSize then parCheckHeader s'
    else respond .ok [] s'

/-- The `NeedMore` arm of `PAR.PULL`: before the end of input `NEED_MORE`, which writes nothing (60_exceptions.md R908),
after it the end of the stream (44_framing.md R822, R824). -/
def parNeedMore (s : State) : Host.Outcome State Fault Refusal :=
  if s.par.eos = false then respond .needMore [] s
  else if s.par.cur = s.par.buf.length then
    respond .endOfStream [] { s with par := { s.par with mode := .done } }
  else raise .truncatedAtEos s

/-- The loop of `PAR.PULL` in StreamingPulses (44_framing.md R822). A skipped zero pulse is consumed (43_overflow_codec.md
R734), whatever the pull answers behind it: 60_exceptions.md R926 has the state after a command be what its pseudocode
writes, and the vectors V8 and V21 are pulls that skip and find nothing behind (95_test_vectors.md section 6;
notes/assumptions/13.md). A skipped pulse is a byte or more, so the number of unconsumed bytes is rounds enough, and
with none left the outcome is `NeedMore`. -/
def parPullLoop : Nat → State → Host.Outcome State Fault Refusal
  | 0, s => parNeedMore s
  | fuel + 1, s =>
    match ovfDecode s.params s.par.profile s.par.buf s.par.cur s.par.eos with
    | .pulse value next => respond .ok [natWord value] { s with par := { s.par with cur := next } }
    | .skip next => parPullLoop fuel { s with par := { s.par with cur := next } }
    | .invalid .badField => raise .invalidField s
    | .invalid .pulseOverflow => raise .pulseOverflow s
    | .needMore => parNeedMore s

/-- `PAR.PULL` (44_framing.md R822). -/
def execParPull (s : State) : Host.Outcome State Fault Refusal :=
  match s.par.mode with
  | .invalid => refuse .badState s
  | .done => respond .endOfStream [] s
  | .awaitingHeader => respond .needMore [] s
  | .streamingPulses => parPullLoop (s.par.buf.length - s.par.cur) s

/-- `PAR.EOS` (44_framing.md R826). -/
def execParEos (s : State) : Host.Outcome State Fault Refusal :=
  if parInputClosed s.par then refuse .badState s
  else
    let s' : State := { s with par := { s.par with eos := true } }
    if s.par.mode = .awaitingHeader then raise (.invalidHeader .headerTruncated) s'
    else respond .ok [] s'

/-- `PAR.RESET` (44_framing.md R828). -/
def execParReset (s : State) : Host.Outcome State Fault Refusal :=
  respond .ok [] { s with par := parReset }

end Sys2Proof.Machine
end

