-- ==== Sys2Proof/Machine/Dispatch.lean ====
section
/-! DEFINITION. The meaning of each command, one arm per constructor (30_encoding.md R303). -/

namespace Sys2Proof.Machine

def exec (i : Instr) (s : State) : Host.Outcome State Fault Refusal :=
  match i with
  | .nop => Sys2Proof.Machine.execNop s
  | .cfgWr reg value => Sys2Proof.Machine.execCfgWr reg value s
  | .cfgRd reg => Sys2Proof.Machine.execCfgRd reg s
  | .reset => Sys2Proof.Machine.execReset s
  | .encSample sample => Sys2Proof.Machine.execEncSample sample s
  | .encFlush => Sys2Proof.Machine.execEncFlush s
  | .encReset => Sys2Proof.Machine.execEncReset s
  | .decPulse pulse => Sys2Proof.Machine.execDecPulse pulse s
  | .decPull count => Sys2Proof.Machine.execDecPull count s
  | .decReset => Sys2Proof.Machine.execDecReset s
  | .parByte byte => Sys2Proof.Machine.execParByte byte s
  | .parPull => Sys2Proof.Machine.execParPull s
  | .parEos => Sys2Proof.Machine.execParEos s
  | .parReset => Sys2Proof.Machine.execParReset s
  | .genStart => Sys2Proof.Machine.execGenStart s
  | .genPulse pulse => Sys2Proof.Machine.execGenPulse pulse s
  | .genFinish => Sys2Proof.Machine.execGenFinish s
  | .genReset => Sys2Proof.Machine.execGenReset s

end Sys2Proof.Machine
end

