-- ==== Sys2Proof/Machine/Step.lean ====
section
/-! DEFINITION. One step of the block: the oldest command in the port is taken and performed to completion
(00_scope.md R14, 20_memory.md R213). -/

namespace Sys2Proof.Machine

/-- One step. With no command in the port the block holds its state (60_exceptions.md R935, 70_reset_and_hazards.md
R1001). An illegal word is refused with `ILLEGAL_CMD` and writes no unit state (60_exceptions.md R904, R905). -/
def step (s : State) : Host.Outcome State Fault Refusal :=
  match s.port with
  | [] => .next s
  | w :: rest =>
    match decode w with
    | .ok i => exec i { s with port := rest }
    | .error _ => refuse .illegalCmd { s with port := rest }

/-- The state with a command word issued so that the very next step performs it: the word stands at the head of the
port, ahead of every word already there (notes/assumptions/1.md). -/
def State.withFetchWord (s : State) (nbits w : Nat) : State :=
  { s with port := tableWord nbits w :: s.port }

end Sys2Proof.Machine
end

