-- ==== Sys2Proof/Machine/Assembler.lean ====
section
/-! DEFINITION. The textual form of commands and the pseudo-instructions (30_encoding.md R340, R341): the host's text
layer, whose results are commands. -/

namespace Sys2Proof.Machine

/-- The name of a register in the assembler syntax (10_state.md R106, 30_encoding.md R340). -/
def regName : Reg → String
  | .encCtrl => "ENC_CTRL"
  | .encSens => "ENC_SENS"
  | .encMinDur => "ENC_MINDUR"
  | .encThresh => "ENC_THRESH"
  | .encStatus => "ENC_STATUS"
  | .encCount => "ENC_COUNT"
  | .encLevel => "ENC_LEVEL"
  | .decCtrl => "DEC_CTRL"
  | .decVolume => "DEC_VOLUME"
  | .decStatus => "DEC_STATUS"
  | .decRem => "DEC_REM"
  | .decPlen => "DEC_PLEN"
  | .genCfg => "GEN_CFG"
  | .genRate => "GEN_RATE"
  | .genStatus => "GEN_STATUS"
  | .genWptr => "GEN_WPTR"
  | .genRateOut => "GEN_RATE_OUT"
  | .parStatus => "PAR_STATUS"
  | .parVersion => "PAR_VERSION"
  | .parMachine => "PAR_MACHINE"
  | .parVideo => "PAR_VIDEO"
  | .parBps => "PAR_BPS"
  | .parRate => "PAR_RATE"
  | .parDataLen => "PAR_DATALEN"
  | .parOffset => "PAR_OFFSET"
  | .parBufLen => "PAR_BUFLEN"
  | .parReserved => "PAR_RESERVED"

/-- Every register, in the order of the map (10_state.md R106). -/
def allRegs : List Reg :=
  [.encCtrl, .encSens, .encMinDur, .encThresh, .encStatus, .encCount, .encLevel, .decCtrl, .decVolume, .decStatus,
    .decRem, .decPlen, .genCfg, .genRate, .genStatus, .genWptr, .genRateOut, .parStatus, .parVersion, .parMachine,
    .parVideo, .parBps, .parRate, .parDataLen, .parOffset, .parBufLen, .parReserved]

/-- An operand as it is written (30_encoding.md R340). -/
inductive AsmOperand where
  /-- A register name. -/
  | name (text : String)
  /-- A decimal number, signed where the command takes one. -/
  | decimal (value : Int)
  /-- A hexadecimal pattern. -/
  | hex (value : Nat)
deriving DecidableEq, Repr

/-- `REG`: a register name or a number 0 to 255 (30_encoding.md R340). -/
def asmReg : AsmOperand → Option Byte
  | .name text => (allRegs.find? (fun r => regName r == text)).map regNumber
  | .decimal value => if 0 ≤ value ∧ value < 2 ^ 8 then some (BitVec.ofInt 8 value) else none
  | .hex value => if value < 2 ^ 8 then some (BitVec.ofNat 8 value) else none

/-- An unsigned operand of `n` bits (30_encoding.md R340). -/
def asmUnsigned (n : Nat) : AsmOperand → Option (BitVec n)
  | .name _ => none
  | .decimal value => if 0 ≤ value ∧ value < 2 ^ n then some (BitVec.ofInt n value) else none
  | .hex value => if value < 2 ^ n then some (BitVec.ofNat n value) else none

/-- `SIMM32`: a signed decimal or a hexadecimal 32-bit pattern (30_encoding.md R340). -/
def asmSigned : AsmOperand → Option Word
  | .name _ => none
  | .decimal value => if -2 ^ 31 ≤ value ∧ value < 2 ^ 31 then some (toWord32 value) else none
  | .hex value => if value < 2 ^ 32 then some (BitVec.ofNat 32 value) else none

/-- The command of one assembler line, its mnemonic in lower case and its operands; none for a line that is no command
(30_encoding.md R340). Its word is `encode` of it. The rule says of `SIMM32` and `UIMM32` whether they are signed and of
the `IMM32` of `cfg.wr` not; the model takes it as unsigned: DESIGN CHOICE, unsafe, notes/assumptions/20.md. -/
def assembleLine (mnemonic : String) (operands : List AsmOperand) : Option Instr :=
  match mnemonic, operands with
  | "nop", [] => some .nop
  | "reset", [] => some .reset
  | "cfg.wr", [r, v] => do return .cfgWr (← asmReg r) (← asmUnsigned 32 v)
  | "cfg.rd", [r] => (asmReg r).map .cfgRd
  | "enc.sample", [v] => (asmSigned v).map .encSample
  | "enc.flush", [] => some .encFlush
  | "enc.reset", [] => some .encReset
  | "dec.pulse", [v] => (asmUnsigned 32 v).map .decPulse
  | "dec.pull", [v] => (asmUnsigned 32 v).map .decPull
  | "dec.reset", [] => some .decReset
  | "par.byte", [v] => (asmUnsigned 8 v).map .parByte
  | "par.pull", [] => some .parPull
  | "par.eos", [] => some .parEos
  | "par.reset", [] => some .parReset
  | "gen.start", [] => some .genStart
  | "gen.pulse", [v] => (asmUnsigned 32 v).map .genPulse
  | "gen.finish", [] => some .genFinish
  | "gen.reset", [] => some .genReset
  | _, _ => none

/-- The pseudo-instructions (30_encoding.md R341). -/
inductive Pseudo where
  /-- `par.bytes b0, …, bn`. -/
  | parBytes (bytes : List Byte)
  /-- `par.ascii "text"`, of ASCII characters (`expandPseudo`). -/
  | parAscii (text : List Char)
  /-- `enc.samples s0, …, sn`. -/
  | encSamples (samples : List Word)
  /-- `enc.square A, P, N`, with `A >= 0` and `P >= 1` (`squarePeriod`). -/
  | encSquare (amplitude : Nat) (period count : Nat)
  /-- `enc.repeat s, n`. -/
  | encRepeat (sample : Word) (count : Nat)
deriving DecidableEq, Repr

/-- One period of `enc.square A, P, N`: `P div 2` samples `A`, then `P - P div 2` samples `-A` (30_encoding.md
R341). The rule bounds `A` below only; above `2^31 - 1`, where `to_word32` has no value (00_scope.md R11), `A` and `-A`
are taken modulo `2^32`, and a `P` of 0 gives no command: DESIGN CHOICE, unsafe, notes/assumptions/20.md. -/
def squarePeriod (amplitude period : Nat) : List Instr :=
  List.replicate (period / 2) (.encSample (toWord32 (amplitude : Int)))
    ++ List.replicate (period - period / 2) (.encSample (toWord32 (-(amplitude : Int))))

/-- The commands a pseudo-instruction expands to (30_encoding.md R341). A character of `par.ascii` that has no ASCII code,
for which the rule gives no byte, gives the low 8 bits of its code point: DESIGN CHOICE, unsafe,
notes/assumptions/20.md. -/
def expandPseudo : Pseudo → List Instr
  | .parBytes bytes => bytes.map .parByte
  | .parAscii text => text.map (fun c => .parByte (BitVec.ofNat 8 c.toNat))
  | .encSamples samples => samples.map .encSample
  | .encSquare amplitude period count => (List.replicate count (squarePeriod amplitude period)).flatten
  | .encRepeat sample count => List.replicate count (.encSample sample)

end Sys2Proof.Machine
end

