-- ==== Sys2Proof/Safety.lean ====
section
/-! DEFINITION. The terms claims are stated in: what each unit's state means on a run (the ranges of 10_state.md and
what the rules keep of them), and the responses of a list of commands. -/

namespace Sys2Proof.Machine

/-- The parameters the rules write as literals have the values 00_scope.md R8, 93_implementation_defined.md P1 and
10_state.md R151 give them. The capacities, `SINE_SUPPORTED`, `V0_ZERO_VALUE` and `RATE_ENC` are free. A statement with
this premise rests on no choice of notes/assumptions/4.md. -/
abbrev SpecConstants (params : Config.Params) : Prop :=
  params.wSample = 32 ∧ params.wCnt = 32 ∧ params.wPulse = 32 ∧ params.headerSize = 20 ∧ params.tapScale = 8
    ∧ params.tapWideSentinel = 0xFFFFFF ∧ params.rateDecC64Pal = 985248#32

/-- ENC holds what its rules allow: legal register fields (10_state.md R107, R110, R111), the ranges of R117
(41_encoder.md R513), the fault bit set exactly in Faulted (60_exceptions.md R912, R927), nothing tracked before
arming (R507), and at least one sample counted while armed and Running (41_encoder.md R511). -/
structure EncOk (params : Config.Params) (e : Enc) : Prop where
  ctrl_legal : legalEncCtrl e.ctrl = e.ctrl
  sens_legal : e.sens.toNat ≤ 100
  ext_range : -2 ^ 31 ≤ e.ext ∧ e.ext ≤ 2 ^ 31
  level_range : e.level ≤ 2 ^ 32
  count_range : e.count ≤ Config.cntMax params
  fault_iff : e.fCntOvf = true ↔ e.mode = .faulted
  unarmed : e.armed = false → e.dir = .up ∧ e.ext = 0 ∧ e.level = 0
  counted : e.armed = true → e.mode = .running → 1 ≤ e.count

/-- DEC holds what its rules allow: legal register fields (10_state.md R120, R121), the ranges of R124, and the fault
bit set exactly in Faulted (60_exceptions.md R913, R927). -/
structure DecOk (params : Config.Params) (d : Dec) : Prop where
  ctrl_legal : legalDecCtrl d.ctrl = d.ctrl
  volume_legal : legalDecVolume d.volume = d.volume
  rem_le : d.rem ≤ d.plen
  plen_range : d.plen ≤ Config.pulseMax params
  fault_iff : d.fZero = true ↔ d.mode = .faulted

/-- A DMP profile has 1 to 32 bits per sample (10_state.md R148). -/
def profileOk : Profile → Prop
  | .tapV0 => True
  | .tapV1 => True
  | .tapV2 => True
  | .dmp b => 1 ≤ b ∧ b ≤ 32

/-- The header version byte of a profile (10_state.md R148). -/
def profileVersion : Profile → Byte
  | .tapV0 => 0#8
  | .tapV1 => 1#8
  | .tapV2 => 2#8
  | .dmp _ => 0#8

/-- GEN holds what its rules allow: legal register fields (10_state.md R130), a 20-byte header (R135) that the sink
begins with once a stream has started (44_framing.md R840, R846), the placeholder length 0 until `GEN.FINISH`, a TAP
pulse section within its length field and a sink within its capacity (60_exceptions.md R914), and a fault bit set
exactly in Faulted (R927). -/
structure GenOk (params : Config.Params) (g : Gen) : Prop where
  cfg_legal : legalGenCfg g.cfg = g.cfg
  hdr_length : g.hdr.length = params.headerSize
  profile_ok : profileOk g.profile
  version_of_profile : g.version = profileVersion g.profile
  sink_header : g.sink = [] ∨ g.sink.take params.headerSize = g.hdr
  tap_placeholder : g.mode = .writing → isTap g.profile = true → g.hdr = tapHeader g.machine g.video g.version 0
  sink_started : g.mode = .writing ∨ g.mode = .done → params.headerSize ≤ g.sink.length
  section_bound : isTap g.profile = true → g.sink.length ≤ Config.tapSectionMax + params.headerSize
  sink_cap : ∀ c, params.sinkCap = some c → g.sink.length ≤ c
  idle_empty : g.mode = .idle → g.sink = []
  fault_iff : (g.fUnsupported = true ∨ g.fZero = true ∨ g.fLength = true) ↔ g.mode = .faulted

/-- PAR holds what its rules allow: the consume offset inside the buffer (10_state.md R143), fewer than 20 bytes while
the header is awaited and the header consumed after it (44_framing.md R805, R818), an error code exactly in Invalid
(R801), the end of input behind Done (R822), at most `PAR_BUF_CAP` unconsumed bytes (20_memory.md R204), and no parsed
field before a header has validated (10_state.md R140, R141). -/
structure ParOk (params : Config.Params) (p : Par) : Prop where
  cur_le : p.cur ≤ p.buf.length
  profile_ok : profileOk p.profile
  awaiting : p.mode = .awaitingHeader → p.buf.length < params.headerSize ∧ p.cur = 0 ∧ p.eos = false
  streaming : p.mode = .streamingPulses ∨ p.mode = .done → params.headerSize ≤ p.cur
  invalid_iff : p.err ≠ .none ↔ p.mode = .invalid
  done_eos : p.mode = .done → p.eos = true
  trailing_done : p.trailing = true → p.mode = .done
  half_iff : p.halfWaves = true ↔ p.profile = .tapV2
  within_cap : ∀ c, params.parBufCap = some c → p.buf.length - p.cur ≤ c
  unparsed : p.cur = 0 →
    p.version = 0#8 ∧ p.machine = 0#8 ∧ p.video = 0#8 ∧ p.bps = 0#8 ∧ p.rate = 0#32 ∧ p.dataLen = 0#32
      ∧ p.reserved = 0#8 ∧ p.halfWaves = false ∧ p.format = .tap ∧ p.family = .c64

/-- Every unit holds what its rules allow. -/
structure StateOk (s : State) : Prop where
  enc : EncOk s.params s.enc
  dec : DecOk s.params s.dec
  gen : GenOk s.params s.gen
  par : ParOk s.params s.par

/-- The state after one command, with its response in it. A command always completes (60_exceptions.md R902, proved as
`Laws.exec_next`), so the other two outcomes leave the state. -/
def perform (i : Instr) (s : State) : State :=
  match exec i s with
  | .next s' => s'
  | .fault _ => s
  | .refused _ => s

/-- The responses of a list of commands performed in order from a state, and the state after the last (20_memory.md
R213). -/
def performAll : List Instr → State → List Response × State
  | [], s => ([], s)
  | i :: rest, s =>
    let s' := perform i s
    let (responses, s'') := performAll rest s'
    (s'.response :: responses, s'')

/-- The data words of a list of responses, in order. -/
def allWords (responses : List Response) : List Word :=
  (responses.map Response.words).flatten

/-- The naturals of data words, the pulses they stand for (30_encoding.md R320). -/
def pulsesOf (responses : List Response) : List Nat :=
  (allWords responses).map BitVec.toNat

end Sys2Proof.Machine
end

