-- ==== Sys2Proof/Certificates/Slice0/Obligations.lean ====
section
/-! DEFINITION. The statements for the provers, each from the rules its docstring names, and the few functions they are
written in, which say a rule's formula apart from the machine's own definitions. The premise `SpecConstants` holds the
widths, the sizes and the other parameters the rules write as literals at their values; the other parameters
are free in every statement. -/

namespace Sys2Proof.Claims

open Sys2Proof.Machine

/-- The commands a unit's mode accepts (60_exceptions.md R906, its table row by row). -/
def gateOpen (i : Instr) (s : State) : Bool :=
  match i with
  | .encSample _ => s.enc.mode == .running
  | .encFlush => s.enc.mode == .running
  | .decPulse _ => s.dec.mode == .running
  | .decPull _ => s.dec.mode == .running
  | .parByte _ => (s.par.mode == .awaitingHeader || s.par.mode == .streamingPulses) && !s.par.eos
  | .parPull => s.par.mode == .awaitingHeader || s.par.mode == .streamingPulses || s.par.mode == .done
  | .parEos => (s.par.mode == .awaitingHeader || s.par.mode == .streamingPulses) && !s.par.eos
  | .genStart => s.gen.mode == .idle || s.gen.mode == .done
  | .genPulse _ => s.gen.mode == .writing
  | .genFinish => s.gen.mode == .writing
  | .nop => true
  | .cfgWr _ _ => true
  | .cfgRd _ => true
  | .reset => true
  | .encReset => true
  | .decReset => true
  | .parReset => true
  | .genReset => true

/-- The register numbers of the map (10_state.md R106). -/
def mappedNumbers : List Byte :=
  [0x10#8, 0x11#8, 0x12#8, 0x13#8, 0x14#8, 0x15#8, 0x16#8, 0x20#8, 0x21#8, 0x22#8, 0x23#8, 0x24#8, 0x30#8, 0x31#8,
    0x32#8, 0x33#8, 0x34#8, 0x40#8, 0x41#8, 0x42#8, 0x43#8, 0x44#8, 0x45#8, 0x46#8, 0x47#8, 0x48#8, 0x49#8]

/-- The numbers of the RW registers (10_state.md R106). -/
def writableNumbers : List Byte := [0x10#8, 0x11#8, 0x12#8, 0x13#8, 0x20#8, 0x21#8, 0x30#8, 0x31#8]

/-- The detector's input `x` (41_encoder.md R503). -/
def sampleInput (e : Enc) (sample : Word) : Int :=
  if e.ctrl.getLsbD 0 then -sample.toInt else sample.toInt

/-- How far an input moves back from the running extremum; negative when it extends it (41_encoder.md R509). -/
def sampleMove (e : Enc) (x : Int) : Int :=
  match e.dir with
  | .up => e.ext - x
  | .down => x - e.ext

/-- Whether an input is a turn: armed, back from the extremum by `e > 0`, and `200 * e >= (100 - SENS) * level`
(41_encoder.md R507, R509). -/
def sampleTurns (e : Enc) (x : Int) : Bool :=
  e.armed && decide (0 < sampleMove e x)
    && decide (((100 - e.sens.toNat % 128 : Nat) : Int) * (e.level : Int) ≤ 200 * sampleMove e x)

/-- Whether an input completes a pulse: a turn that is a boundary (41_encoder.md R510: HALF, or TRIG 1 on a falling turn,
or TRIG 0 on a rising one) with the count at least ENC_MINDUR (R511). -/
def sampleEmits (e : Enc) (x : Int) : Bool :=
  sampleTurns e x && (e.ctrl.getLsbD 1 || (e.ctrl.getLsbD 2 == (e.dir == .up))) && decide (e.minDur.toNat ≤ e.count)

/-- The detector state after an input, the count aside (41_encoder.md R507, R509). -/
def sampleTracked (e : Enc) (x : Int) : Enc :=
  if e.armed then
    { e with
      ext := if sampleMove e x ≤ 0 ∨ sampleTurns e x = true then x else e.ext
      dir := if sampleTurns e x then (match e.dir with | .up => .down | .down => .up) else e.dir
      level := if sampleTurns e x then (sampleMove e x).toNat else e.level }
  else if e.thresh.toNat < x.natAbs then
    { e with armed := true, dir := if 0 < x then .up else .down, ext := x, level := e.thresh.toNat }
  else e

/-- The segment `(from, to, j, L, lvl)` of sample `k` of a pulse of length `P` (42_decoder.md R606): `half` is
`dec.cur_half`, `σ` the level sign of a half-wave pulse. -/
def pulseSegment (half : Bool) (σ V : Int) (P k : Nat) : Int × Int × Nat × Nat × Int :=
  if half then (-(σ * V), σ * V, k, P, σ * V)
  else if k < P / 2 then (-V, V, k, P / 2, V)
  else (V, -V, k - P / 2, P - P / 2, -V)

/-- The segment of the next sample a decoder outputs (42_decoder.md R604, R606). -/
def nextSegment (d : Dec) : Int × Int × Nat × Nat × Int :=
  pulseSegment d.curHalf (match d.curSign with | .pos => 1 | .neg => -1) ((d.volume.toNat % 2 ^ 31 : Nat) : Int) d.plen
    (d.plen - d.rem)

/-- The word of a sample value under DEC_CTRL `INVERT` (42_decoder.md R607). -/
def outputWord (d : Dec) (v : Int) : Word := BitVec.ofInt 32 (if d.ctrl.getLsbD 2 then -v else v)

/-- The checks of a header in their order, each with the error it reports (44_framing.md R810 to R815). -/
def headerChecks (h : List Byte) : List (Bool × ParErr) :=
  let sig := h.take 12
  let tap64 := sig == "C64-TAPE-RAW".toList.map (fun c => BitVec.ofNat 8 c.toNat)
  let tap16 := sig == "C16-TAPE-RAW".toList.map (fun c => BitVec.ofNat 8 c.toNat)
  let dmp := sig == "DC2N-TAP-RAW".toList.map (fun c => BitVec.ofNat 8 c.toNat)
  let version := (h.getD 12 0#8).toNat
  let machine := (h.getD 13 0#8).toNat
  [(!(tap64 || tap16 || dmp), .badSignature),
    ((tap64 || tap16) && !decide (version ≤ 2), .badVersion),
    (dmp && version != 0, .badVersion),
    (tap64 && !decide (machine ≤ 1), .badMachine),
    (tap16 && machine != 2, .badMachine),
    (dmp && !decide (machine ≤ 2), .badMachine),
    ((tap64 || tap16) && !decide ((h.getD 14 0#8).toNat ≤ 1), .badVideo),
    (dmp && !decide (1 ≤ (h.getD 15 0#8).toNat ∧ (h.getD 15 0#8).toNat ≤ 32), .badBps)]

/-- The first check that fails (44_framing.md R810). -/
def headerVerdict (h : List Byte) : Option ParErr :=
  ((headerChecks h).find? (fun c => c.1)).map Prod.snd

/-- The rate a TAP header with a machine and video byte stands for (10_state.md R151). -/
def tapHeaderRate (machine video : Byte) : Word :=
  if machine = 0#8 then (if video = 0#8 then 985248#32 else Config.rateDecC64Ntsc)
  else if machine = 1#8 then (if video = 0#8 then Config.rateDecVic20Pal else Config.rateDecVic20Ntsc)
  else (if video = 0#8 then Config.rateDecC16Pal else Config.rateDecC16Ntsc)

/-- The four bytes of a natural, least significant first (00_scope.md R12). -/
def fourBytes (v : Nat) : List Byte :=
  [BitVec.ofNat 8 v, BitVec.ofNat 8 (v / 2 ^ 8), BitVec.ofNat 8 (v / 2 ^ 16), BitVec.ofNat 8 (v / 2 ^ 24)]

/-- A configuration that names no supported stream (60_exceptions.md R910), read off GEN_CFG. -/
def unsupported (cfg : Word) : Bool :=
  let machine := cfg.toNat / 2 ^ 4 % 4
  let bps := cfg.toNat / 2 ^ 8 % 64
  let half := cfg.getLsbD 1
  machine == 3 || (!cfg.getLsbD 0 && cfg.getLsbD 2 && half) || (cfg.getLsbD 0 && half)
    || (cfg.getLsbD 0 && !decide (1 ≤ bps ∧ bps ≤ 32))

/-- The machine of a GEN_CFG `MACHINE` code 0 to 2 (10_state.md R130). -/
def cfgMachine (cfg : Word) : Config.Computer :=
  match cfg.toNat / 2 ^ 4 % 4 with
  | 0 => .c64
  | 1 => .vic20
  | _ => .c16

/-- The video standard of GEN_CFG `VIDEO` (10_state.md R130). -/
def cfgVideo (cfg : Word) : Config.VideoStd := if cfg.getLsbD 6 then .ntsc else .pal

/-- `LE_n(v)`: byte `i` is `(v div 2^(8i)) mod 256` (00_scope.md R12). -/
def littleEndian (n v : Nat) : List Byte := (List.range n).map fun i => BitVec.ofNat 8 (v / 2 ^ (8 * i))

/-- `n` fields of the same bytes. -/
def fields (n : Nat) (field : List Byte) : List Byte := (List.replicate n field).flatten

/-- The TAP v1/v2 overflow field (43_overflow_codec.md R710). -/
def tapSentinelField : List Byte := [0x00#8, 0xFF#8, 0xFF#8, 0xFF#8]

/-- The bytes of a pulse, and whether they are exact. TAP v1/v2: `p div 0xFFFFFF` overflow fields, then one byte for a
remainder that is a multiple of 8 in 8..1016 and a zero byte with three bytes for any other (43_overflow_codec.md R710).
DMP of `b` bits: `p div S` fields of `S = 2^b - 1`, then the remainder, each of `(b + 7) div 8` bytes (R714). TAP v0: 1
for a pulse below 8, `p div 8` below 2048, and from there a run of zeros of `v0` each (R712). -/
def pulseBytes (v0 : Nat) (profile : Profile) (p : Nat) : List Byte × Bool :=
  let tap := fields (p / 0xFFFFFF) tapSentinelField ++
    (let r := p % 0xFFFFFF
      if 8 ≤ r ∧ r ≤ 1016 ∧ 8 ∣ r then [BitVec.ofNat 8 (r / 8)] else 0x00#8 :: littleEndian 3 r)
  match profile with
  | .tapV0 =>
    if p < 8 then ([0x01#8], false)
    else if p < 2048 then ([BitVec.ofNat 8 (p / 8)], decide (8 ∣ p))
    else (List.replicate (max 1 (p / v0)) 0x00#8, decide (p = max 1 (p / v0) * v0))
  | .tapV1 => (tap, true)
  | .tapV2 => (tap, true)
  | .dmp b =>
    let sentinel := 2 ^ b - 1
    let width := (b + 7) / 8
    (fields (p / sentinel) (littleEndian width sentinel) ++ littleEndian width (p % sentinel), true)

/-- What a decoded total is, with the offset behind its bytes: above `PULSE_MAX` invalid, 0 skipped, else a pulse
(`final` of 43_overflow_codec.md R722; R732, R734). -/
def judged (total next : Nat) : OvfOutcome :=
  if 2 ^ 32 - 1 < total then .invalid .pulseOverflow else if total = 0 then .skip next else .pulse total next

/-- A pulse TAP v0 represents exactly (43_overflow_codec.md R736). -/
def exactInTapV0 (p : Nat) : Prop := (∃ q, 1 ≤ q ∧ q ≤ 255 ∧ p = 8 * q) ∨ (∃ n, 1 ≤ n ∧ p = 25000 * n)

/-- A profile whose bytes read back every pulse (43_overflow_codec.md R736). -/
def losslessProfile : Profile → Prop
  | .tapV0 => False
  | .tapV1 => True
  | .tapV2 => True
  | .dmp b => 1 ≤ b ∧ b ≤ 32

/-- A command that ends or restarts ENC's stream (41_encoder.md R520, R525, 40_control.md R405). -/
def endsEncStream : Instr → Bool
  | .encFlush => true
  | .encReset => true
  | .reset => true
  | _ => false

/-- The pulses ENC emits over a list of commands: the words of the responses to `ENC.SAMPLE` and `ENC.FLUSH`
(41_encoder.md R511, R520). -/
def encEmitted : List Instr → State → List Nat
  | [], _ => []
  | i :: rest, s =>
    let s' := perform i s
    (match i with
      | .encSample _ => s'.response.words.map BitVec.toNat
      | .encFlush => s'.response.words.map BitVec.toNat
      | _ => []) ++ encEmitted rest s'

/-- Whether a command is `ENC.SAMPLE`. -/
def isSample : Instr → Bool
  | .encSample _ => true
  | _ => false

/-- The commands that pull a list of sample counts. -/
def pulls (counts : List Word) : List Instr := counts.map .decPull

/-- The commands that play a list of pulses: each is offered, then pulled whole (70_reset_and_hazards.md R1007). -/
def play (pulses : List Word) : List Instr := pulses.flatMap (fun p => [.decPulse p, .decPull p])

/-- The commands that write a stream of pulses (44_framing.md R850). -/
def writeStream (pulses : List Word) : List Instr := .genStart :: (pulses.map .genPulse ++ [.genFinish])

/-- The commands that read a byte sequence to its end (44_framing.md R850): every byte, the end of input, and `n`
pulls. -/
def readStream (bytes : List Byte) (n : Nat) : List Instr :=
  bytes.map .parByte ++ (.parEos :: List.replicate n .parPull)

/-- The parser modes a command may lead to (44_framing.md R801, its table row by row). -/
def parserMayGo (i : Instr) (a b : ParMode) : Prop :=
  a = b ∨ (i = .parReset ∨ i = .reset) ∧ b = .awaitingHeader
    ∨ (∃ byte, i = .parByte byte) ∧ a = .awaitingHeader ∧ (b = .streamingPulses ∨ b = .invalid)
    ∨ i = .parEos ∧ a = .awaitingHeader ∧ b = .invalid
    ∨ i = .parPull ∧ a = .streamingPulses ∧ (b = .invalid ∨ b = .done)

/-- The statuses that report a fault, a command's `raise` (60_exceptions.md R902, R910 to R917). -/
def faultStatuses : List Status :=
  [.invalidHeader, .invalidField, .pulseOverflow, .truncatedAtEos, .unsupportedConfig, .zeroPulse, .counterOverflow,
    .lengthOverflow]

/-- The unit a register number's high digit names (10_state.md R106). -/
def numberUnit (r : Byte) : Nat := r.toNat / 16

/-- Whether a command may change ENC (40_control.md R402, R405, R406). -/
def touchesEnc : Instr → Bool
  | .encSample _ | .encFlush | .encReset | .reset => true
  | .cfgWr r _ => numberUnit r == 1
  | _ => false

/-- Whether a command may change DEC. -/
def touchesDec : Instr → Bool
  | .decPulse _ | .decPull _ | .decReset | .reset => true
  | .cfgWr r _ => numberUnit r == 2
  | _ => false

/-- Whether a command may change GEN. -/
def touchesGen : Instr → Bool
  | .genStart | .genPulse _ | .genFinish | .genReset | .reset => true
  | .cfgWr r _ => numberUnit r == 3
  | _ => false

/-- Whether a command may change PAR, which has no configuration register (44_framing.md R828). -/
def touchesPar : Instr → Bool
  | .parByte _ | .parPull | .parEos | .parReset | .reset => true
  | _ => false

end Sys2Proof.Claims

open Sys2Proof Sys2Proof.Machine Sys2Proof.Claims

/-! ### Command words and the step -/

/-- Decode and encode agree both ways: a word decodes to a command exactly when it is the command's word, with every
operand at every value (30_encoding.md sections 1 and 2). -/
def Obligations.DecodeInvertsEncode : Prop :=
  ∀ (i : Instr) (w : CommandWord), decode w = .ok i ↔ encode i = w

/-- A word with an unassigned `OP` or a nonzero unused field is refused with `ILLEGAL_CMD`, no words, and no state
written (30_encoding.md R304, R305; 60_exceptions.md R904; the port is the model's own, notes/assumptions/1.md). -/
def Obligations.IllegalWordsAreRefused : Prop :=
  ∀ (s : State) (w : CommandWord) (rest : List CommandWord), s.port = w :: rest → commandWellFormed w = false →
    step s = .next { s with port := rest, response := ⟨.illegalCmd, []⟩ }

/-- A step takes the oldest command word of the port and performs the command it decodes to; with no command issued the
state stands (the port is the model's own, notes/assumptions/1.md). -/
def Obligations.StepPerformsTheDecodedCommand : Prop :=
  (∀ (s : State) (w : CommandWord) (rest : List CommandWord) (i : Instr), s.port = w :: rest → decode w = .ok i →
      step s = exec i { s with port := rest })
    ∧ ∀ s : State, s.port = [] → step s = .next s

/-- Words written out from the opcode map decode to the commands they stand for, one of every unit (30_encoding.md R301
to R303; the words of 95_test_vectors.md). -/
def Obligations.TableWordsDecode : Prop :=
  decode 0x0111000000FA#48 = .ok (.cfgWr 0x11#8 250#32) ∧ decode 0x022100000000#48 = .ok (.cfgRd 0x21#8)
    ∧ decode 0x1000FFFFFF9C#48 = .ok (.encSample (BitVec.ofInt 32 (-100)))
    ∧ decode 0x200000000006#48 = .ok (.decPulse 6#32) ∧ decode 0x300000000064#48 = .ok (.parByte 100#8)
    ∧ decode 0x4100030001F1#48 = .ok (.genPulse 50332145#32) ∧ decode 0x030000000000#48 = .error (.unknownOpcode 3#8)
    ∧ decode 0x300000000100#48 = .error (.reservedField 0x30#8)

/-! ### Every command: gates, refusals, units -/

/-- A command is refused with `BAD_STATE` exactly in the modes its row of the gating table leaves out
(60_exceptions.md R906). -/
def Obligations.ModeGatesDecideBadState : Prop :=
  ∀ (i : Instr) (s t : State), exec i s = .next t → (t.response.status = .badState ↔ gateOpen i s = false)

/-- A command answered by a status of class refusal writes no state and emits no words (60_exceptions.md R905). -/
def Obligations.RefusalsWriteNoState : Prop :=
  ∀ (i : Instr) (s t : State), exec i s = .next t →
    t.response.status ∈ [Status.illegalCmd, .badReg, .badState, .busy] →
      t = { s with response := ⟨t.response.status, []⟩ }

/-- `BUSY` is answered exactly by `DEC.PULSE` while samples are left and by `PAR.BYTE` while the buffer holds
`PAR_BUF_CAP` unconsumed bytes, each in a mode that accepts it; pulling the samples left clears the first, and a pulled
pulse advances `par.cur` (60_exceptions.md R907). -/
def Obligations.BusyOnlyWhileFull : Prop :=
  (∀ (i : Instr) (s t : State), exec i s = .next t →
      (t.response.status = .busy ↔
        gateOpen i s = true ∧
          ((∃ p, i = .decPulse p) ∧ 0 < s.dec.rem
            ∨ (∃ b, i = .parByte b) ∧ s.params.parBufCap = some (s.par.buf.length - s.par.cur))))
    ∧ (∀ (s t : State) (n : Word), s.dec.mode = .running → s.dec.rem ≤ n.toNat → exec (.decPull n) s = .next t →
      t.dec.rem = 0)
    ∧ ∀ s t : State, profileOk s.par.profile → exec .parPull s = .next t → t.response.status = .ok →
      s.par.cur < t.par.cur ∧ t.par.cur ≤ t.par.buf.length

/-- A command changes its own unit only, `CFG.WR` only the unit of its register (40_control.md R406, 60_exceptions.md R927,
R933). That none, `RESET` included, changes the parameters or the commands still in the port is the model's choice:
notes/assumptions/3.md (the parameters), notes/assumptions/1.md (the port). -/
def Obligations.CommandsTouchOnlyTheirUnit : Prop :=
  ∀ (i : Instr) (s t : State), exec i s = .next t →
    t.params = s.params ∧ t.port = s.port ∧ (touchesEnc i = false → t.enc = s.enc)
      ∧ (touchesDec i = false → t.dec = s.dec) ∧ (touchesGen i = false → t.gen = s.gen)
      ∧ (touchesPar i = false → t.par = s.par)

/-- A unit leaves Faulted, Ended or Invalid only by its unit reset or `RESET`; until then it refuses its gated commands,
so faults do not nest; and a fault of a command changes its own unit only (60_exceptions.md R927). -/
def Obligations.FaultsAreLeftOnlyByReset : Prop :=
  (∀ (i : Instr) (s t : State), exec i s = .next t → i ≠ .reset →
      (i ≠ .encReset → s.enc.mode ≠ .running → t.enc.mode = s.enc.mode)
        ∧ (i ≠ .decReset → s.dec.mode = .faulted → t.dec.mode = .faulted)
        ∧ (i ≠ .genReset → s.gen.mode = .faulted → t.gen.mode = .faulted)
        ∧ (i ≠ .parReset → s.par.mode = .invalid → t.par.mode = .invalid))
    ∧ (∀ (s : State) (v : Word) (b : Byte),
      let refused := Host.Outcome.next (φ := Fault) (ρ := Refusal) { s with response := ⟨.badState, []⟩ }
      (s.enc.mode ≠ .running → exec (.encSample v) s = refused ∧ exec .encFlush s = refused)
        ∧ (s.dec.mode = .faulted → exec (.decPulse v) s = refused ∧ exec (.decPull v) s = refused)
        ∧ (s.gen.mode = .faulted →
          exec .genStart s = refused ∧ exec (.genPulse v) s = refused ∧ exec .genFinish s = refused)
        ∧ (s.par.mode = .invalid →
          exec (.parByte b) s = refused ∧ exec .parPull s = refused ∧ exec .parEos s = refused))
    ∧ ∀ (i : Instr) (s t : State), exec i s = .next t → t.response.status ∈ faultStatuses →
      (touchesEnc i = true ∧ t.dec = s.dec ∧ t.gen = s.gen ∧ t.par = s.par)
        ∨ (touchesDec i = true ∧ t.enc = s.enc ∧ t.gen = s.gen ∧ t.par = s.par)
        ∨ (touchesGen i = true ∧ t.enc = s.enc ∧ t.dec = s.dec ∧ t.par = s.par)
        ∨ (touchesPar i = true ∧ t.enc = s.enc ∧ t.dec = s.dec ∧ t.gen = s.gen)

/-! ### Control commands and registers -/

/-- `NOP` answers OK and changes nothing; its word with a nonzero `AUX` or `DATA` is refused with `ILLEGAL_CMD`
(40_control.md R401; the port is the model's own, notes/assumptions/1.md). -/
def Obligations.NopChangesNothing : Prop :=
  (∀ s : State, exec .nop s = .next { s with response := ⟨.ok, []⟩ })
    ∧ ∀ (s : State) (w : CommandWord) (rest : List CommandWord), s.port = w :: rest → opField w = 0#8 →
        step s = .next { s with
          port := rest
          response := ⟨if auxField w = 0#8 ∧ dataField w = 0#32 then .ok else .illegalCmd, []⟩ }

/-- `CFG.WR` of each RW register stores the value its field rules make legal and answers OK in every mode; a write of
ENC_CTRL that changes `INVERT` while armed negates the extremum and reverses the direction, and no write changes
anything else (40_control.md R402, 41_encoder.md R516, 10_state.md R110 to R131). -/
def Obligations.CfgWrStoresTheLegalValue : Prop :=
  ∀ (s : State) (v : Word),
    let flips := s.enc.armed && (s.enc.ctrl.getLsbD 0 != v.getLsbD 0)
    exec (.cfgWr 0x10#8 v) s = .next { s with
          enc := { s.enc with
            ctrl := v &&& 0x7#32
            ext := if flips then -s.enc.ext else s.enc.ext
            dir := if flips then (match s.enc.dir with | .up => .down | .down => .up) else s.enc.dir }
          response := ⟨.ok, []⟩ }
      ∧ exec (.cfgWr 0x11#8 v) s = .next { s with
          enc := { s.enc with sens := BitVec.ofNat 32 (min (v.toNat % 128) 100) }, response := ⟨.ok, []⟩ }
      ∧ exec (.cfgWr 0x12#8 v) s = .next { s with enc := { s.enc with minDur := v }, response := ⟨.ok, []⟩ }
      ∧ exec (.cfgWr 0x13#8 v) s = .next { s with enc := { s.enc with thresh := v }, response := ⟨.ok, []⟩ }
      ∧ exec (.cfgWr 0x20#8 v) s = .next { s with
          dec := { s.dec with ctrl := if v.toNat % 4 = 3 then v &&& 0xC#32 else v &&& 0xF#32 }
          response := ⟨.ok, []⟩ }
      ∧ exec (.cfgWr 0x21#8 v) s = .next { s with
          dec := { s.dec with volume := v &&& 0x7FFFFFFF#32 }, response := ⟨.ok, []⟩ }
      ∧ exec (.cfgWr 0x30#8 v) s = .next { s with
          gen := { s.gen with cfg := v &&& 0x3F77#32 }, response := ⟨.ok, []⟩ }
      ∧ exec (.cfgWr 0x31#8 v) s = .next { s with gen := { s.gen with rateReg := v }, response := ⟨.ok, []⟩ }

/-- `CFG.RD` of each register that is no status register answers the stored or computed value, saturated to 32 bits where
its rule says so, and changes nothing else (40_control.md R403, 20_memory.md R209, 10_state.md R115, R116, R123, R133,
R134, R141, R142). That ENC_COUNT, DEC_REM and DEC_PLEN read the low 32 bits of a value above `2^32 - 1`, which no run
reaches at the spec's widths, is the model's choice: notes/assumptions/4.md. -/
def Obligations.CfgRdReturnsTheValue : Prop :=
  ∀ (s : State), ∀ p ∈
    [(0x10#8, s.enc.ctrl), (0x11#8, s.enc.sens), (0x12#8, s.enc.minDur), (0x13#8, s.enc.thresh),
      (0x15#8, BitVec.ofNat 32 s.enc.count), (0x16#8, BitVec.ofNat 32 (min s.enc.level 0xFFFFFFFF)),
      (0x20#8, s.dec.ctrl), (0x21#8, s.dec.volume), (0x23#8, BitVec.ofNat 32 s.dec.rem),
      (0x24#8, BitVec.ofNat 32 s.dec.plen), (0x30#8, s.gen.cfg), (0x31#8, s.gen.rateReg),
      (0x33#8, BitVec.ofNat 32 (min s.gen.sink.length 0xFFFFFFFF)), (0x34#8, s.gen.rate),
      (0x41#8, s.par.version.setWidth 32), (0x42#8, s.par.machine.setWidth 32), (0x43#8, s.par.video.setWidth 32),
      (0x44#8, s.par.bps.setWidth 32), (0x45#8, s.par.rate), (0x46#8, s.par.dataLen),
      (0x47#8, BitVec.ofNat 32 (min s.par.cur 0xFFFFFFFF)),
      (0x48#8, BitVec.ofNat 32 (min s.par.buf.length 0xFFFFFFFF)), (0x49#8, s.par.reserved.setWidth 32)],
    exec (.cfgRd p.1) s = .next { s with response := ⟨.ok, [p.2]⟩ }

/-- A register number outside the map, and for a write a read-only register, is refused with `BAD_REG`, nothing written
and no words (60_exceptions.md R903). -/
def Obligations.BadRegistersAreRefused : Prop :=
  ∀ (s : State) (r : Byte) (v : Word),
    (r ∉ mappedNumbers → exec (.cfgRd r) s = .next { s with response := ⟨.badReg, []⟩ })
      ∧ (r ∉ writableNumbers → exec (.cfgWr r v) s = .next { s with response := ⟨.badReg, []⟩ })

/-- ENC_STATUS reads ARMED at bit 0, MODE at bits 2:1, DIR at bit 3, F_CNT_OVF at bit 4, and 0 above; it reads 0 after
reset, and F_CNT_OVF is sticky until an ENC reset (10_state.md R114). -/
def Obligations.EncStatusFields : Prop :=
  (∀ s : State, ∃ w : Word, exec (.cfgRd 0x14#8) s = .next { s with response := ⟨.ok, [w]⟩ }
      ∧ w.getLsbD 0 = s.enc.armed
      ∧ w.extractLsb' 1 2 = (match s.enc.mode with | .running => 0#2 | .ended => 1#2 | .faulted => 2#2)
      ∧ w.getLsbD 3 = (s.enc.dir == .down) ∧ w.getLsbD 4 = s.enc.fCntOvf ∧ w.extractLsb' 5 27 = 0#27)
    ∧ exec (.cfgRd 0x14#8) State.reset = .next { State.reset with response := ⟨.ok, [0#32]⟩ }
    ∧ ∀ (i : Instr) (s t : State), exec i s = .next t → i ∉ [Instr.encReset, .reset] → s.enc.fCntOvf = true →
      t.enc.fCntOvf = true

/-- DEC_STATUS reads ACTIVE at bit 0, MODE at bit 1, F_ZERO at bit 2, NEXT_NEG at bit 3, CUR_HALF at bit 4, and 0 above;
it reads 0 after reset, and F_ZERO is sticky until a DEC reset (10_state.md R122). -/
def Obligations.DecStatusFields : Prop :=
  (∀ s : State, ∃ w : Word, exec (.cfgRd 0x22#8) s = .next { s with response := ⟨.ok, [w]⟩ }
      ∧ w.getLsbD 0 = decide (0 < s.dec.rem) ∧ w.getLsbD 1 = (s.dec.mode == .faulted) ∧ w.getLsbD 2 = s.dec.fZero
      ∧ w.getLsbD 3 = (s.dec.nextSign == .neg) ∧ w.getLsbD 4 = s.dec.curHalf ∧ w.extractLsb' 5 27 = 0#27)
    ∧ exec (.cfgRd 0x22#8) State.reset = .next { State.reset with response := ⟨.ok, [0#32]⟩ }
    ∧ ∀ (i : Instr) (s t : State), exec i s = .next t → i ∉ [Instr.decReset, .reset] → s.dec.fZero = true →
      t.dec.fZero = true

/-- GEN_STATUS reads STATE at bits 1:0, LOSSY at bit 2, the three fault bits at bits 3 to 5, PROFILE at bits 7:6, VERSION
at bits 15:8, and 0 above; it reads 0 after reset, the fault bits are sticky until a GEN reset and LOSSY until
`GEN.START` or one (10_state.md R132). -/
def Obligations.GenStatusFields : Prop :=
  (∀ s : State, ∃ w : Word, exec (.cfgRd 0x32#8) s = .next { s with response := ⟨.ok, [w]⟩ }
      ∧ w.extractLsb' 0 2 =
          (match s.gen.mode with | .idle => 0#2 | .writing => 1#2 | .done => 2#2 | .faulted => 3#2)
      ∧ w.getLsbD 2 = s.gen.lossy ∧ w.getLsbD 3 = s.gen.fUnsupported ∧ w.getLsbD 4 = s.gen.fZero
      ∧ w.getLsbD 5 = s.gen.fLength
      ∧ w.extractLsb' 6 2 =
          (match s.gen.profile with | .tapV0 => 0#2 | .tapV1 => 1#2 | .tapV2 => 2#2 | .dmp _ => 3#2)
      ∧ w.extractLsb' 8 8 = s.gen.version ∧ w.extractLsb' 16 16 = 0#16)
    ∧ exec (.cfgRd 0x32#8) State.reset = .next { State.reset with response := ⟨.ok, [0#32]⟩ }
    ∧ ∀ (i : Instr) (s t : State), exec i s = .next t → i ∉ [Instr.genReset, .reset] →
      (s.gen.fUnsupported = true → t.gen.fUnsupported = true) ∧ (s.gen.fZero = true → t.gen.fZero = true)
        ∧ (s.gen.fLength = true → t.gen.fLength = true)
        ∧ (i ≠ .genStart → s.gen.lossy = true → t.gen.lossy = true)

/-- PAR_STATUS reads STATE at bits 1:0, ERR at bits 7:4, EOS, TRAILING, HALF_WAVES, FORMAT and FAMILY at bits 8 to 12, and
0 elsewhere; bits 10 to 12 are 0 until a header has validated, and it reads 0 after reset (10_state.md R140). -/
def Obligations.ParStatusFields : Prop :=
  (∀ s : State, ∃ w : Word, exec (.cfgRd 0x40#8) s = .next { s with response := ⟨.ok, [w]⟩ }
      ∧ w.extractLsb' 0 2 =
          (match s.par.mode with | .awaitingHeader => 0#2 | .streamingPulses => 1#2 | .invalid => 2#2 | .done => 3#2)
      ∧ w.extractLsb' 2 2 = 0#2
      ∧ w.extractLsb' 4 4 =
          (match s.par.err with
            | .none => 0#4 | .badSignature => 1#4 | .badVersion => 2#4 | .badMachine => 3#4 | .badVideo => 4#4
            | .badBps => 5#4 | .headerTruncated => 6#4 | .badField => 7#4 | .pulseOverflow => 8#4)
      ∧ w.getLsbD 8 = s.par.eos ∧ w.getLsbD 9 = s.par.trailing ∧ w.getLsbD 10 = s.par.halfWaves
      ∧ w.getLsbD 11 = (s.par.format == .dmp) ∧ w.getLsbD 12 = (s.par.family == .c16) ∧ w.extractLsb' 13 19 = 0#19
      ∧ (ParOk s.params s.par → s.par.cur = 0 → w.extractLsb' 10 3 = 0#3))
    ∧ exec (.cfgRd 0x40#8) State.reset = .next { State.reset with response := ⟨.ok, [0#32]⟩ }

/-! ### Reset -/

/-- `RESET` answers OK in every mode and leaves the power-on state; the parameters, and the commands the host has still in
the port, stay (40_control.md R405, 70_reset_and_hazards.md R1001, R1004; notes/assumptions/1.md, 2.md, 3.md). -/
def Obligations.BlockResetLeavesThePowerOnState : Prop :=
  ∀ s : State, exec .reset s = .next { State.reset with params := s.params, port := s.port }

/-- At power-on, and after `RESET` in any state, every register of the map reads the reset value the map gives it
(70_reset_and_hazards.md R1002, 10_state.md R106). -/
def Obligations.ResetRegisterValues : Prop :=
  ∀ (s : State), ∀ t ∈ [State.reset, perform .reset s], ∀ r ∈ mappedNumbers,
    exec (.cfgRd r) t = .next { t with
      response := ⟨.ok, [if r = 0x11#8 then 0x64#32 else if r = 0x21#8 then 0x7FFFFFFF#32
        else if r = 0x30#8 then 0x800#32 else 0#32]⟩ }

/-- At power-on, after `RESET` and after the unit's own reset, every unit state element has the value its table's reset
column gives (70_reset_and_hazards.md R1003, 10_state.md R117, R124, R135, R143). -/
def Obligations.ResetUnitState : Prop :=
  ∀ s : State,
    (∀ e ∈ [State.reset.enc, (perform .reset s).enc, (perform .encReset s).enc],
        e.mode = .running ∧ e.armed = false ∧ e.dir = .up ∧ e.ext = 0 ∧ e.level = 0 ∧ e.count = 0 ∧ e.fCntOvf = false)
      ∧ (∀ d ∈ [State.reset.dec, (perform .reset s).dec, (perform .decReset s).dec],
        d.mode = .running ∧ d.plen = 0 ∧ d.rem = 0 ∧ d.nextSign = .pos ∧ d.curSign = .pos ∧ d.curHalf = false
          ∧ d.fZero = false)
      ∧ (∀ g ∈ [State.reset.gen, (perform .reset s).gen, (perform .genReset s).gen],
        g.mode = .idle ∧ g.profile = .tapV0 ∧ g.sink = [] ∧ g.hdr = List.replicate 20 0#8 ∧ g.rate = 0#32
          ∧ g.version = 0#8 ∧ g.machine = .c64 ∧ g.video = .pal ∧ g.lossy = false ∧ g.fUnsupported = false
          ∧ g.fZero = false ∧ g.fLength = false)
      ∧ ∀ p ∈ [State.reset.par, (perform .reset s).par, (perform .parReset s).par],
        p.mode = .awaitingHeader ∧ p.buf = [] ∧ p.cur = 0 ∧ p.eos = false ∧ p.profile = .tapV0 ∧ p.err = .none
          ∧ p.trailing = false ∧ p.version = 0#8 ∧ p.machine = 0#8 ∧ p.video = 0#8 ∧ p.bps = 0#8 ∧ p.rate = 0#32
          ∧ p.dataLen = 0#32 ∧ p.reserved = 0#8 ∧ p.halfWaves = false ∧ p.format = .tap ∧ p.family = .c64

/-- A unit reset answers OK in every mode, returns that unit's state and fault bits to their reset values, keeps every
configuration register and changes no other unit (40_control.md R406). -/
def Obligations.UnitResetsKeepConfiguration : Prop :=
  ∀ s : State,
    exec .encReset s = .next { s with
        enc := { State.reset.enc with
          ctrl := s.enc.ctrl, sens := s.enc.sens, minDur := s.enc.minDur, thresh := s.enc.thresh }
        response := ⟨.ok, []⟩ }
      ∧ exec .decReset s = .next { s with
        dec := { State.reset.dec with ctrl := s.dec.ctrl, volume := s.dec.volume }, response := ⟨.ok, []⟩ }
      ∧ exec .parReset s = .next { s with par := State.reset.par, response := ⟨.ok, []⟩ }
      ∧ exec .genReset s = .next { s with
        gen := { State.reset.gen with cfg := s.gen.cfg, rateReg := s.gen.rateReg }, response := ⟨.ok, []⟩ }

/-! ### ENC -/

/-- A running encoder whose counter can take the sample tracks, turns and emits by the detector's rules, counts the
sample, and changes nothing else; a full counter does not stop the tracking, and only a reset disarms
(41_encoder.md R507, R509, R510, with R511 and R512). -/
def Obligations.EncSampleFollowsTheDetector : Prop :=
  (∀ (s : State) (sample : Word), SpecConstants s.params →
      let x := sampleInput s.enc sample
      let emits := sampleEmits s.enc x
      s.enc.mode = .running →
        (s.enc.count ≠ 2 ^ 32 - 1 ∨ emits = true →
            exec (.encSample sample) s = .next { s with
              enc := { sampleTracked s.enc x with count := if emits then 1 else s.enc.count + 1 }
              response := ⟨.ok, if emits then [BitVec.ofNat 32 s.enc.count] else []⟩ })
          ∧ ∀ t, exec (.encSample sample) s = .next t →
            { t.enc with count := s.enc.count, mode := s.enc.mode, fCntOvf := s.enc.fCntOvf } = sampleTracked s.enc x)
    ∧ ∀ (i : Instr) (s t : State), exec i s = .next t → i ∉ [Instr.encReset, .reset] → s.enc.armed = true →
      t.enc.armed = true

/-- A running encoder with a full counter and no pulse to emit raises `COUNTER_OVERFLOW`: the fault bit is set, the mode
becomes Faulted, the count stays and ENC_COUNT reads it, the detector's writes stand, and nothing else changes
(60_exceptions.md R912, 41_encoder.md R512). -/
def Obligations.EncCounterOverflowFaults : Prop :=
  ∀ (s : State) (sample : Word), SpecConstants s.params →
    let x := sampleInput s.enc sample
    let t := { s with
      enc := { sampleTracked s.enc x with count := 2 ^ 32 - 1, fCntOvf := true, mode := .faulted }
      response := ⟨.counterOverflow, []⟩ }
    s.enc.mode = .running → s.enc.count = 2 ^ 32 - 1 → sampleEmits s.enc x = false →
      exec (.encSample sample) s = .next t
        ∧ exec (.cfgRd 0x15#8) t = .next { t with response := ⟨.ok, [0xFFFFFFFF#32]⟩ }

/-- `ENC.FLUSH` emits the count of an armed encoder when it is not 0, clears it and ends the stream; in Ended or Faulted
it is refused, and so is `ENC.SAMPLE` (41_encoder.md R520). -/
def Obligations.EncFlushEndsTheStream : Prop :=
  ∀ s : State, SpecConstants s.params →
    (s.enc.mode = .running →
      exec .encFlush s = .next { s with
        enc := { s.enc with count := 0, mode := .ended }
        response := ⟨.ok, if s.enc.armed = true ∧ 0 < s.enc.count then [BitVec.ofNat 32 s.enc.count] else []⟩ })
      ∧ (s.enc.mode ≠ .running →
        exec .encFlush s = .next { s with response := ⟨.badState, []⟩ }
          ∧ ∀ v, exec (.encSample v) s = .next { s with response := ⟨.badState, []⟩ })

/-- Every pulse a sample completes is at least 1 and at least ENC_MINDUR (the derived clause of 41_encoder.md R511). -/
def Obligations.EncPulsesAreDebounced : Prop :=
  ∀ (s t : State) (sample : Word), SpecConstants s.params → EncOk s.params s.enc →
    exec (.encSample sample) s = .next t →
    ∀ w ∈ t.response.words, 1 ≤ w.toNat ∧ s.enc.minDur.toNat ≤ w.toNat

/-- Conservation: over a stream from an ENC reset to `ENC.FLUSH`, any other commands in between, that arms and does not
overflow the counter, the emitted pulses sum to the number of samples (41_encoder.md R531). -/
def Obligations.PulsesSumToTheSamples : Prop :=
  ∀ (s : State) (commands : List Instr), SpecConstants s.params → (∀ c ∈ commands, endsEncStream c = false) →
    let stream := .encReset :: (commands ++ [.encFlush])
    (∀ r ∈ (performAll stream s).1, r.status ≠ .counterOverflow) → (performAll stream s).2.enc.armed = true →
      (encEmitted stream s).sum = commands.countP isSample

/-- A stream none of whose samples exceeds ENC_THRESH in magnitude produces no pulse, not at the flush either
(41_encoder.md R530). -/
def Obligations.SilentStreamsEmitNothing : Prop :=
  ∀ (s : State) (samples : List Word), SpecConstants s.params → (∀ x ∈ samples, x.toInt.natAbs ≤ s.enc.thresh.toNat) →
    allWords (performAll (.encReset :: (samples.map .encSample ++ [.encFlush])) s).1 = []

/-- A square wave of constant period `P` over `N` periods is encoded as exactly `N` pulses of value `P`, whatever the
amplitude above the threshold (41_encoder.md R532, 30_encoding.md R341). The counter bound holds `P`. -/
def Obligations.ConstantPeriodGivesConstantPulses : Prop :=
  ∀ (s : State) (A P N : Nat), SpecConstants s.params → 2 ≤ P → P ≤ 2 ^ 32 - 1 → 0 < A → A ≤ 2 ^ 31 - 1 →
    s.enc.thresh.toNat < A → s.enc.sens = 100#32 → s.enc.minDur = 0#32 → s.enc.ctrl = 0#32 →
      pulsesOf (performAll (.encReset :: (expandPseudo (.encSquare A P N) ++ [.encFlush])) s).1 = List.replicate N P

/-! ### DEC -/

/-- `DEC.PULSE` in every case: refused unless Running, `BUSY` while samples are left, `ZERO_PULSE` with its fault bit on 0,
and else the pulse taken, its half-wave sign latched and the next one reversed (42_decoder.md R602). -/
def Obligations.DecPulseStartsThePulse : Prop :=
  ∀ (s : State) (p : Word), SpecConstants s.params →
    (s.dec.mode ≠ .running → exec (.decPulse p) s = .next { s with response := ⟨.badState, []⟩ })
      ∧ (s.dec.mode = .running → 0 < s.dec.rem → exec (.decPulse p) s = .next { s with response := ⟨.busy, []⟩ })
      ∧ (s.dec.mode = .running → s.dec.rem = 0 → p = 0#32 →
          exec (.decPulse p) s = .next { s with
            dec := { s.dec with fZero := true, mode := .faulted }, response := ⟨.zeroPulse, []⟩ })
      ∧ (s.dec.mode = .running → s.dec.rem = 0 → p ≠ 0#32 →
          exec (.decPulse p) s = .next { s with
            dec := { s.dec with
              plen := p.toNat
              rem := p.toNat
              curHalf := s.dec.ctrl.getLsbD 3
              curSign := if s.dec.ctrl.getLsbD 3 then s.dec.nextSign else s.dec.curSign
              nextSign := if s.dec.ctrl.getLsbD 3 then (match s.dec.nextSign with | .pos => .neg | .neg => .pos)
                else s.dec.nextSign }
            response := ⟨.ok, []⟩ })

/-- `DEC.PULL` of a running decoder sends the next `min(n, rem)` samples of the current pulse, in order, and changes
nothing but `dec.rem`; otherwise it is refused (42_decoder.md R604). -/
def Obligations.DecPullSendsTheNextSamples : Prop :=
  ∀ (s : State) (n : Word), SpecConstants s.params →
    (s.dec.mode ≠ .running → exec (.decPull n) s = .next { s with response := ⟨.badState, []⟩ })
      ∧ (s.dec.mode = .running →
          let m := min n.toNat s.dec.rem
          exec (.decPull n) s = .next { s with
            dec := { s.dec with rem := s.dec.rem - m }
            response := ⟨.ok, (List.range m).map fun k =>
              BitVec.ofInt 32 (decOut s.params s.dec (s.dec.plen - (s.dec.rem - k)))⟩ })

/-- The next sample of an active pulse is the level of its segment for the square shape, and
`from + tdiv((to - from) * (j + 1), L)` for the triangle, negated under `INVERT` (42_decoder.md R606, R608, R610). -/
def Obligations.PulledSampleHasTheRulesValue : Prop :=
  ∀ s : State, SpecConstants s.params → s.dec.mode = .running → 0 < s.dec.rem → s.dec.rem ≤ s.dec.plen →
    let (start, stop, j, L, lvl) := nextSegment s.dec
    let answer := fun v : Int => Host.Outcome.next (φ := Fault) (ρ := Refusal) { s with
      dec := { s.dec with rem := s.dec.rem - 1 }, response := ⟨.ok, [outputWord s.dec v]⟩ }
    (s.dec.ctrl.toNat % 4 = 0 → exec (.decPull 1#32) s = answer lvl)
      ∧ (s.dec.ctrl.toNat % 4 = 1 → exec (.decPull 1#32) s = answer (start + Int.tdiv ((stop - start) * (j + 1)) L))

/-- The sine shape falls back to the square level when it is not supported; when it is, the sample is one function of the
segment's `(from, to, j, L)` that lies between the two ends and reaches `to` on the last sample (42_decoder.md R612). -/
def Obligations.SineKeepsItsContract : Prop :=
  ∃ ramp : Int → Int → Nat → Nat → Int,
    (∀ a b j L, min a b ≤ ramp a b j L ∧ ramp a b j L ≤ max a b) ∧ (∀ a b j L, j + 1 = L → ramp a b j L = b)
      ∧ ∀ s : State, SpecConstants s.params → s.dec.mode = .running → 0 < s.dec.rem → s.dec.rem ≤ s.dec.plen →
        s.dec.ctrl.toNat % 4 = 2 →
          let (start, stop, j, L, lvl) := nextSegment s.dec
          exec (.decPull 1#32) s = .next { s with
            dec := { s.dec with rem := s.dec.rem - 1 }
            response := ⟨.ok, [outputWord s.dec (if s.params.sineSupported then ramp start stop j L else lvl)]⟩ }

/-- Every sample `DEC.PULL` sends lies in `[-VOL, +VOL]`, in every shape and with `INVERT` or not, so its word is exact
(the derived clause of 42_decoder.md R607). -/
def Obligations.SamplesStayWithinVolume : Prop :=
  ∀ (s t : State) (n : Word), SpecConstants s.params → DecOk s.params s.dec → exec (.decPull n) s = .next t →
    ∀ w ∈ t.response.words, w.toInt.natAbs ≤ s.dec.volume.toNat % 2 ^ 31

/-- An accepted pulse `P` yields exactly `P` samples however the pulls that follow cut it, the same samples one pull of
all of them yields, and no pull sends more than the samples left (42_decoder.md R622, R604). -/
def Obligations.PullsYieldThePulse : Prop :=
  (∀ (s : State) (p : Word) (counts : List Word), SpecConstants s.params → s.dec.mode = .running → s.dec.rem = 0 →
    p ≠ 0#32 →
      p.toNat ≤ (counts.map BitVec.toNat).sum →
        (allWords (performAll (.decPulse p :: pulls counts) s).1).length = p.toNat
          ∧ allWords (performAll (.decPulse p :: pulls counts) s).1
            = allWords (performAll [.decPulse p, .decPull p] s).1)
    ∧ ∀ (s t : State) (n : Word), exec (.decPull n) s = .next t → t.response.words.length ≤ s.dec.rem

/-- Square round trip: the samples DEC makes of a list of pulses, fed to ENC and flushed, come back as exactly those
pulses, in full-wave mode (every pulse at least 2) and in half-wave mode (42_decoder.md R623). -/
def Obligations.SquareWaveRoundTrip : Prop :=
  ∀ (s : State) (half : Bool) (pulses : List Word), SpecConstants s.params →
    s.dec.ctrl = (if half then 8#32 else 0#32) → s.enc.ctrl = (if half then 2#32 else 0#32) →
    0 < s.dec.volume.toNat % 2 ^ 31 → s.enc.thresh.toNat < s.dec.volume.toNat % 2 ^ 31 → s.enc.sens = 100#32 →
    s.enc.minDur = 0#32 → (∀ p ∈ pulses, (if half then 1 else 2) ≤ p.toNat) →
      let played := performAll (.decReset :: play pulses) s
      pulsesOf (performAll (.encReset :: ((allWords played.1).map .encSample ++ [.encFlush])) played.2).1
        = pulses.map BitVec.toNat

/-! ### OVF -/

/-- The bytes of a pulse are the rule's, written apart from the machine, for every profile (43_overflow_codec.md R710, R712,
R714; of TAP v0 at a zero value that can divide); and for TAP v1, TAP v2 and every DMP width, decoding them gives the
pulse back, whatever stands before and after the bytes and whatever `eos` is (R736, all but its TAP v0 sentence). -/
def Obligations.OverflowRoundTrip : Prop :=
  ∀ (params : Config.Params) (p : Nat) (profile : Profile), SpecConstants params → 1 ≤ p → p ≤ 2 ^ 32 - 1 →
      ((profile = .tapV0 → 1 ≤ params.v0ZeroValue) →
          ovfEncode params profile p = pulseBytes params.v0ZeroValue profile p)
        ∧ (losslessProfile profile → ∀ (before after : List Byte) (eos : Bool),
          ovfDecode params profile (before ++ (ovfEncode params profile p).1 ++ after) before.length eos
            = .pulse p (before.length + (ovfEncode params profile p).1.length))

/-- TAP v0 fields: a nonzero byte stands for `8 * q`; a run of `k` zero bytes stands for one pulse of
`k * V0_ZERO_VALUE` once a nonzero byte or the end of the stream closes it, and is not known before; a run whose value
is above `PULSE_MAX` is invalid whatever follows, and one of value 0 is skipped (30_encoding.md R334,
43_overflow_codec.md R725, R732). -/
def Obligations.TapV0ZeroRunIsOnePulse : Prop :=
  ∀ (params : Config.Params) (k : Nat) (before after : List Byte) (q : Byte) (eos : Bool), SpecConstants params →
    q ≠ 0#8 →
    ovfDecode params .tapV0 (before ++ q :: after) before.length eos = .pulse (8 * q.toNat) (before.length + 1)
      ∧ (1 ≤ k →
          let total := k * params.v0ZeroValue
          let run := before ++ List.replicate k 0#8
          ovfDecode params .tapV0 (run ++ q :: after) before.length eos = judged total (before.length + k)
            ∧ ovfDecode params .tapV0 run before.length true = judged total (before.length + k)
            ∧ ovfDecode params .tapV0 run before.length false
              = if 2 ^ 32 - 1 < total then .invalid .pulseOverflow else .needMore)

/-- A proper prefix of a complete encoding needs more bytes and is never a pulse, for every profile; of TAP v0 the zero
run is complete only at a nonzero byte or at `eos` (43_overflow_codec.md R738). -/
def Obligations.PrefixesNeedMoreBytes : Prop :=
  ∀ params : Config.Params, SpecConstants params →
    (∀ (p n : Nat) (profile : Profile) (before : List Byte) (eos : Bool), losslessProfile profile → 1 ≤ p →
        p ≤ 2 ^ 32 - 1 → n < (ovfEncode params profile p).1.length →
          ovfDecode params profile (before ++ (ovfEncode params profile p).1.take n) before.length eos = .needMore)
      ∧ ∀ (p n : Nat) (before : List Byte), params.v0ZeroValue = 25000 → 1 ≤ p → p ≤ 2 ^ 32 - 1 →
        n < (ovfEncode params .tapV0 p).1.length →
          ovfDecode params .tapV0 (before ++ (ovfEncode params .tapV0 p).1.take n) before.length false = .needMore

/-- At the reference zero value, a TAP v0 pulse sets `LOSSY` exactly when its bytes do not read back as it: it is no
multiple of 8 in 8..2040 and no multiple of 25000, or it is a zero run behind another (43_overflow_codec.md R712,
44_framing.md R844, 70_reset_and_hazards.md R1010). -/
def Obligations.TapV0LossIsFlagged : Prop :=
  ∀ (s t : State) (p : Word), SpecConstants s.params → s.params.v0ZeroValue = 25000 → s.gen.mode = .writing →
    s.gen.profile = .tapV0 →
    s.gen.lossy = false → exec (.genPulse p) s = .next t → t.response.status = .ok →
      (t.gen.lossy = false ↔
        exactInTapV0 p.toNat
          ∧ ¬ (2048 ≤ p.toNat ∧ 20 < s.gen.sink.length ∧ sinkByte s (s.gen.sink.length - 1) = some 0#8))

/-! ### PAR -/

/-- `PAR.BYTE` in an open mode with room appends its byte at the end of the buffer and changes nothing else, unless it is
the 20th byte of a header (44_framing.md R820, 20_memory.md R202). -/
def Obligations.ParByteAppends : Prop :=
  ∀ (s : State) (b : Byte), SpecConstants s.params → gateOpen (.parByte b) s = true →
    s.params.parBufCap ≠ some (s.par.buf.length - s.par.cur) →
    (s.par.mode = .streamingPulses ∨ s.par.buf.length ≠ 19) →
      exec (.parByte b) s = .next { s with par := { s.par with buf := s.par.buf ++ [b] }, response := ⟨.ok, []⟩ }

/-- The 20th byte of a header that fails a check raises `INVALID_HEADER` with the first failing check as `ERR`, the byte
kept in the buffer and no field recorded; a header that fails none starts the stream (44_framing.md R810 to R815,
60_exceptions.md R915). -/
def Obligations.HeadersAreJudgedByTheFirstFailingCheck : Prop :=
  ∀ (s : State) (b : Byte), SpecConstants s.params → s.par.mode = .awaitingHeader → s.par.eos = false →
    s.par.buf.length = 19 → s.params.parBufCap ≠ some (s.par.buf.length - s.par.cur) →
      (∀ e, headerVerdict (s.par.buf ++ [b]) = some e →
          exec (.parByte b) s = .next { s with
            par := { s.par with buf := s.par.buf ++ [b], err := e, mode := .invalid }
            response := ⟨.invalidHeader, []⟩ })
        ∧ (headerVerdict (s.par.buf ++ [b]) = none →
          ∃ t, exec (.parByte b) s = .next t ∧ t.response = ⟨.ok, []⟩ ∧ t.par.mode = .streamingPulses ∧ t.par.cur = 20
            ∧ t.par.buf = s.par.buf ++ [b])

/-- A valid header records every field its format names, sets the profile, the half-wave flag and the rate, and moves to
StreamingPulses with 20 bytes consumed (44_framing.md R818, 10_state.md R141, R148, R149, R151). -/
def Obligations.ValidHeadersAreRecorded : Prop :=
  ∀ (s : State) (b ver machine video x l0 l1 l2 l3 : Byte), SpecConstants s.params → s.par.mode = .awaitingHeader →
    s.par.eos = false → s.params.parBufCap ≠ some (s.par.buf.length - s.par.cur) →
      (∀ fam : Family, s.par.buf ++ [b] =
            (match fam with | .c64 => sigC64 | .c16 => sigC16) ++ [ver, machine, video, x, l0, l1, l2, l3] →
          ver.toNat ≤ 2 → (match fam with | .c64 => machine.toNat ≤ 1 | .c16 => machine.toNat = 2) → video.toNat ≤ 1 →
          exec (.parByte b) s = .next { s with
            par := { s.par with
              buf := s.par.buf ++ [b], mode := .streamingPulses, cur := 20, format := .tap, family := fam
              version := ver, machine := machine, video := video, bps := 0#8, reserved := x
              rate := tapHeaderRate machine video
              dataLen := l3 ++ l2 ++ l1 ++ l0
              profile := if ver = 0#8 then .tapV0 else if ver = 1#8 then .tapV1 else .tapV2
              halfWaves := ver == 2#8 }
            response := ⟨.ok, []⟩ })
        ∧ (s.par.buf ++ [b] = sigDmp ++ [ver, machine, video, x, l0, l1, l2, l3] →
          ver = 0#8 → machine.toNat ≤ 2 → 1 ≤ x.toNat → x.toNat ≤ 32 →
          exec (.parByte b) s = .next { s with
            par := { s.par with
              buf := s.par.buf ++ [b], mode := .streamingPulses, cur := 20, format := .dmp, family := .c64
              version := ver, machine := machine, video := video, bps := x, reserved := 0#8
              rate := l3 ++ l2 ++ l1 ++ l0
              dataLen := 0#32
              profile := .dmp x.toNat
              halfWaves := false }
            response := ⟨.ok, []⟩ })

/-- Of the values of the version, machine and video bytes behind a TAP signature exactly 18 validate, 12 behind
"C64-TAPE-RAW" and 6 behind "C16-TAPE-RAW", whatever the reserved and length bytes; every other one, and every signature
but the three of 30_encoding.md R332, is rejected (44_framing.md R851). -/
def Obligations.AcceptedHeadersAreCounted : Prop :=
  let bytes := fun (n : Nat) => (List.range n).map (BitVec.ofNat 8)
  let triples := fun (machines : List Byte) =>
    (bytes 3).flatMap fun ver => machines.flatMap fun machine => (bytes 2).map fun video => (ver, machine, video)
  let accepts := fun (signature : List Byte) (c : Byte × Byte × Byte) (tail : List Byte) =>
    (validateHeader (signature ++ [c.1, c.2.1, c.2.2] ++ tail)).isOk
  (triples [0#8, 1#8]).Nodup ∧ (triples [0#8, 1#8]).length = 12 ∧ (triples [2#8]).Nodup ∧ (triples [2#8]).length = 6
    ∧ (∀ c tail, accepts sigC64 c tail = true ↔ c ∈ triples [0#8, 1#8])
    ∧ (∀ c tail, accepts sigC16 c tail = true ↔ c ∈ triples [2#8])
    ∧ ∀ h : List Byte, h.take 12 ∉ [sigC64, sigC16, sigDmp] → validateHeader h = .error .badSignature

/-- `PAR.PULL` in every mode: refused in Invalid, END in Done, NEED_MORE before the header, and in StreamingPulses what
`OvfDecode` gives at the consume offset, a zero pulse consumed and the pull going on behind it, whatever it then answers
(44_framing.md R822, R824; 60_exceptions.md R916, R917, R926; 43_overflow_codec.md R734); an answer of NEED_MORE consumes
nothing of the incomplete pulse and changes nothing else, and the pull sent again changes nothing at all (R908, read so
in notes/assumptions/13.md). And `OvfDecode` at bytes: behind `n` overflow fields a TAP v1/v2 byte `b`, 0x80 to 0xFF
too, adds `8 * b`, a wide or DMP field adds its value, a DMP field above `2^b - 1` is invalid, and a total above
`PULSE_MAX` is invalid as soon as it is reached (43_overflow_codec.md R722, R730, R732, R734). -/
def Obligations.ParPullFollowsTheDecode : Prop :=
  (∀ s : State, SpecConstants s.params → profileOk s.par.profile →
    (s.par.mode = .invalid → exec .parPull s = .next { s with response := ⟨.badState, []⟩ })
      ∧ (s.par.mode = .done → exec .parPull s = .next { s with response := ⟨.endOfStream, []⟩ })
      ∧ (s.par.mode = .awaitingHeader → exec .parPull s = .next { s with response := ⟨.needMore, []⟩ })
      ∧ (s.par.mode = .streamingPulses →
          match ovfDecode s.params s.par.profile s.par.buf s.par.cur s.par.eos with
          | .pulse v j =>
            exec .parPull s = .next { s with
              par := { s.par with cur := j }, response := ⟨.ok, [BitVec.ofNat 32 v]⟩ }
          | .skip j =>
            s.par.cur < j ∧ exec .parPull s = exec .parPull { s with par := { s.par with cur := j } }
          | .invalid .badField =>
            exec .parPull s = .next { s with
              par := { s.par with err := .badField, mode := .invalid }, response := ⟨.invalidField, []⟩ }
          | .invalid .pulseOverflow =>
            exec .parPull s = .next { s with
              par := { s.par with err := .pulseOverflow, mode := .invalid }, response := ⟨.pulseOverflow, []⟩ }
          | .needMore =>
            exec .parPull s =
              if s.par.eos = false then .next { s with response := ⟨.needMore, []⟩ }
              else if s.par.cur = s.par.buf.length then
                .next { s with par := { s.par with mode := .done }, response := ⟨.endOfStream, []⟩ }
              else
                .next { s with
                  par := { s.par with trailing := true, mode := .done }, response := ⟨.truncatedAtEos, []⟩ }))
    ∧ (∀ s t : State, exec .parPull s = .next t → t.response.status = .needMore →
      t = { s with par := { s.par with cur := t.par.cur }, response := ⟨.needMore, []⟩ }
        ∧ s.par.cur ≤ t.par.cur
        ∧ (s.par.mode = .streamingPulses → profileOk s.par.profile →
          ovfDecode s.params s.par.profile s.par.buf t.par.cur s.par.eos = .needMore)
        ∧ (profileOk s.par.profile → exec .parPull t = .next t))
    ∧ ∀ (params : Config.Params) (before after : List Byte) (eos : Bool) (n : Nat), SpecConstants params →
      let decoded := fun (profile : Profile) (bytes : List Byte) =>
        ovfDecode params profile (before ++ bytes ++ after) before.length eos
      (∀ profile ∈ [Profile.tapV1, .tapV2],
          (∀ b : Byte, b ≠ 0#8 →
              decoded profile (fields n tapSentinelField ++ [b])
                = judged (n * 0xFFFFFF + 8 * b.toNat) (before.length + 4 * n + 1))
            ∧ (∀ w, w < 0xFFFFFF →
              decoded profile (fields n tapSentinelField ++ 0x00#8 :: littleEndian 3 w)
                = judged (n * 0xFFFFFF + w) (before.length + 4 * n + 4))
            ∧ (2 ^ 32 - 1 < n * 0xFFFFFF → decoded profile (fields n tapSentinelField) = .invalid .pulseOverflow))
        ∧ ∀ b, 1 ≤ b → b ≤ 32 →
          let S := 2 ^ b - 1
          let N := (b + 7) / 8
          (∀ w, w < S →
              decoded (.dmp b) (fields n (littleEndian N S) ++ littleEndian N w)
                = judged (n * S + w) (before.length + N * n + N))
            ∧ (∀ w, S < w → w < 2 ^ (8 * N) → n * S ≤ 2 ^ 32 - 1 →
              decoded (.dmp b) (fields n (littleEndian N S) ++ littleEndian N w) = .invalid .badField)
            ∧ (2 ^ 32 - 1 < n * S → decoded (.dmp b) (fields n (littleEndian N S)) = .invalid .pulseOverflow)

/-- `PAR.EOS` marks the end of input; before a whole header it raises `INVALID_HEADER` with `ERR` 6; afterwards, in Invalid
and in Done a second one and every `PAR.BYTE` are refused; and a TAP v0 zero run at the end of the buffer, which needed
more bytes before, is complete (44_framing.md R826). -/
def Obligations.ParEosEndsTheInput : Prop :=
  ∀ s : State,
    (s.par.eos = true ∨ s.par.mode = .invalid ∨ s.par.mode = .done →
      let refused := Host.Outcome.next (φ := Fault) (ρ := Refusal) { s with response := ⟨.badState, []⟩ }
      exec .parEos s = refused ∧ ∀ b, exec (.parByte b) s = refused)
      ∧ (s.par.eos = false → s.par.mode = .awaitingHeader →
        exec .parEos s = .next { s with
          par := { s.par with eos := true, err := .headerTruncated, mode := .invalid }
          response := ⟨.invalidHeader, []⟩ })
      ∧ (s.par.eos = false → s.par.mode = .streamingPulses →
        let t := { s with par := { s.par with eos := true }, response := ⟨.ok, []⟩ }
        exec .parEos s = .next t
          ∧ (∀ b, exec (.parByte b) t = .next { t with response := ⟨.badState, []⟩ })
          ∧ ∀ k, SpecConstants s.params → s.par.profile = .tapV0 → s.par.buf.drop s.par.cur = List.replicate k 0#8 →
            1 ≤ k * s.params.v0ZeroValue → k * s.params.v0ZeroValue ≤ 2 ^ 32 - 1 →
              exec .parPull s = .next { s with response := ⟨.needMore, []⟩ }
                ∧ exec .parPull t = .next { t with
                  par := { t.par with cur := s.par.cur + k }
                  response := ⟨.ok, [BitVec.ofNat 32 (k * s.params.v0ZeroValue)]⟩ })

/-- Every change of the parser's mode, by any command, is a row of its transition table (44_framing.md R801). -/
def Obligations.ParserModesFollowTheTable : Prop :=
  ∀ (i : Instr) (s t : State), exec i s = .next t → parserMayGo i s.par.mode t.par.mode

/-- No command but a PAR reset changes or drops a byte of the input buffer: every offset it had reads as before
(20_memory.md R202). -/
def Obligations.InputBufferIsAppendOnly : Prop :=
  ∀ (i : Instr) (s t : State), exec i s = .next t → i ≠ .parReset → i ≠ .reset →
    ∀ a, a < s.par.buf.length → bufByte t a = bufByte s a

/-! ### GEN -/

/-- `GEN.START` of a supported configuration with room latches it, leaves the sink holding the 20 header bytes alone, and
changes nothing else (44_framing.md R840, R841, R842). -/
def Obligations.GenStartWritesTheHeader : Prop :=
  ∀ s : State, SpecConstants s.params → s.gen.mode = .idle ∨ s.gen.mode = .done → unsupported s.gen.cfg = false →
    (∀ c, s.params.sinkCap = some c → 20 ≤ c) →
      let cfg := s.gen.cfg
      let m := cfgMachine cfg
      let v := cfgVideo cfg
      let codes : List Byte :=
        [(match m with | .c64 => 0#8 | .vic20 => 1#8 | .c16 => 2#8), (match v with | .pal => 0#8 | .ntsc => 1#8)]
      let started := fun (profile : Profile) (ver : Byte) (rate : Word) (hdr : List Byte) =>
        Host.Outcome.next (φ := Fault) (ρ := Refusal) { s with
          gen := { s.gen with
            sink := hdr, hdr := hdr, profile := profile, version := ver, rate := rate, machine := m, video := v
            lossy := false, mode := .writing }
          response := ⟨.ok, []⟩ }
      (cfg.getLsbD 0 = false →
        let ver : Byte := if cfg.getLsbD 2 then 0#8 else if cfg.getLsbD 1 then 2#8 else 1#8
        exec .genStart s =
          started (if cfg.getLsbD 2 then .tapV0 else if cfg.getLsbD 1 then .tapV2 else .tapV1) ver
            (rateLookup s.params.rateEnc m v)
            ((if m = .c16 then sigC16 else sigC64) ++ [ver] ++ codes ++ [0#8, 0#8, 0#8, 0#8, 0#8]))
        ∧ (cfg.getLsbD 0 = true →
          exec .genStart s =
            started (.dmp (cfg.toNat / 2 ^ 8 % 64)) 0#8 s.gen.rateReg
              (sigDmp ++ [0#8] ++ codes ++ [BitVec.ofNat 8 (cfg.toNat / 2 ^ 8 % 64)] ++ fourBytes s.gen.rateReg.toNat))

/-- `GEN.START` of a configuration that names no supported stream raises `UNSUPPORTED_CONFIG`: the fault bit is set, the
mode becomes Faulted, and the sink and everything else stay (60_exceptions.md R910). -/
def Obligations.UnsupportedConfigurationsFault : Prop :=
  ∀ s : State, s.gen.mode = .idle ∨ s.gen.mode = .done → unsupported s.gen.cfg = true →
    exec .genStart s = .next { s with
      gen := { s.gen with fUnsupported := true, mode := .faulted }, response := ⟨.unsupportedConfig, []⟩ }

/-- `GEN.PULSE` while Writing: a zero pulse raises `ZERO_PULSE`; the bytes of any other, written apart from the machine,
are appended whole at the end of the sink when they fit, with `LOSSY` set when they are not exact or a TAP v0 zero run
follows another (44_framing.md R844, 43_overflow_codec.md R710, R712, R714, 60_exceptions.md R913). -/
def Obligations.GenPulseAppendsTheEncoding : Prop :=
  ∀ (s : State) (p : Word), SpecConstants s.params → s.gen.mode = .writing →
    (p = 0#32 →
      exec (.genPulse p) s = .next { s with
        gen := { s.gen with fZero := true, mode := .faulted }, response := ⟨.zeroPulse, []⟩ })
      ∧ (p ≠ 0#32 → (s.gen.profile = .tapV0 → 1 ≤ s.params.v0ZeroValue) →
        let out := (pulseBytes s.params.v0ZeroValue s.gen.profile p.toNat).1
        let exact := (pulseBytes s.params.v0ZeroValue s.gen.profile p.toNat).2
        let folds := s.gen.profile = .tapV0 ∧ out.head? = some 0#8 ∧ 20 < s.gen.sink.length
          ∧ sinkByte s (s.gen.sink.length - 1) = some 0#8
        (isTap s.gen.profile = true → s.gen.sink.length + out.length ≤ 2 ^ 32 - 1 + 20) →
        (∀ c, s.params.sinkCap = some c → s.gen.sink.length + out.length ≤ c) →
          exec (.genPulse p) s = .next { s with
            gen := { s.gen with
              sink := s.gen.sink ++ out
              lossy := s.gen.lossy || !exact || decide folds }
            response := ⟨.ok, []⟩ })

/-- `LENGTH_OVERFLOW`: a pulse that would pass the TAP length field or the sink's capacity, and a start in a sink of fewer
than 20 bytes, set the fault bit and Faulted and write no byte (60_exceptions.md R914). -/
def Obligations.LengthOverflowWritesNothing : Prop :=
  ∀ s : State, SpecConstants s.params →
    let faulted := Host.Outcome.next (φ := Fault) (ρ := Refusal) { s with
      gen := { s.gen with fLength := true, mode := .faulted }, response := ⟨.lengthOverflow, []⟩ }
    let lengthWith := fun p : Word =>
      s.gen.sink.length + (pulseBytes s.params.v0ZeroValue s.gen.profile p.toNat).1.length
    (∀ p : Word, s.gen.mode = .writing → p ≠ 0#32 → (s.gen.profile = .tapV0 → 1 ≤ s.params.v0ZeroValue) →
        ((isTap s.gen.profile = true ∧ 2 ^ 32 - 1 + 20 < lengthWith p)
          ∨ ∃ c, s.params.sinkCap = some c ∧ c < lengthWith p) →
        exec (.genPulse p) s = faulted)
      ∧ (s.gen.mode = .idle ∨ s.gen.mode = .done → unsupported s.gen.cfg = false →
        (∃ c, s.params.sinkCap = some c ∧ c < 20) → exec .genStart s = faulted)

/-- `GEN.FINISH` while Writing ends the stream: a TAP header is written again with the length of the pulse section, the
rest of the sink kept; a DMP stream has no byte written (44_framing.md R841, R846). The length written for a sink shorter
than its header or `2^32` bytes and more longer, which no run has, is the model's choice: notes/assumptions/14.md. -/
def Obligations.GenFinishWritesTheLength : Prop :=
  ∀ s : State, SpecConstants s.params →
    (s.gen.mode ≠ .writing → exec .genFinish s = .next { s with response := ⟨.badState, []⟩ })
      ∧ (s.gen.mode = .writing → isTap s.gen.profile = false →
        exec .genFinish s = .next { s with gen := { s.gen with mode := .done }, response := ⟨.ok, []⟩ })
      ∧ (s.gen.mode = .writing → isTap s.gen.profile = true →
        let hdr := (match s.gen.machine with | .c64 => sigC64 | .vic20 => sigC64 | .c16 => sigC16)
          ++ [s.gen.version, (match s.gen.machine with | .c64 => 0#8 | .vic20 => 1#8 | .c16 => 2#8),
            (match s.gen.video with | .pal => 0#8 | .ntsc => 1#8), 0#8] ++ fourBytes (s.gen.sink.length - 20)
        exec .genFinish s = .next { s with
          gen := { s.gen with sink := hdr ++ s.gen.sink.drop 20, hdr := hdr, mode := .done }, response := ⟨.ok, []⟩ })

/-- On a run's states `GEN.FINISH` changes no sink byte but the length field at offsets 16 to 19 of a TAP stream, which
then holds the length of the pulse section (44_framing.md R846). -/
def Obligations.FinishChangesOnlyTheLengthField : Prop :=
  ∀ s t : State, SpecConstants s.params → GenOk s.params s.gen → s.gen.mode = .writing → exec .genFinish s = .next t →
    (∀ a, (isTap s.gen.profile = false ∨ a < 16 ∨ 20 ≤ a) → sinkByte t a = sinkByte s a)
      ∧ (isTap s.gen.profile = true →
        ∀ j, j < 4 → sinkByte t (16 + j) = some (BitVec.ofNat 8 ((s.gen.sink.length - 20) / 2 ^ (8 * j))))

/-- Which bytes of the sink a command leaves: `GEN.PULSE` every byte written before it, and every command outside GEN all
of them (20_memory.md R205, R206). -/
def Obligations.SinkBytesOutsideAWriteStay : Prop :=
  ∀ (i : Instr) (s t : State), exec i s = .next t →
    ((∃ p, i = .genPulse p) → ∀ a, a < s.gen.sink.length → sinkByte t a = sinkByte s a)
      ∧ (i ∉ [Instr.genStart, .genFinish, .genReset, .reset] → (∀ p, i ≠ .genPulse p) →
        ∀ a, sinkByte t a = sinkByte s a)

/-- Generate then parse: a stream GEN writes with no fault and no loss, fed to a PAR from reset with `PAR.EOS` behind it,
comes back pulse for pulse and then END, with the header fields GEN latched (44_framing.md R850). The buffer is unbounded
or holds the whole sink; a smaller one refuses bytes. -/
def Obligations.GenerateThenParse : Prop :=
  ∀ (s : State) (pulses : List Word), SpecConstants s.params →
    let written := performAll (.genReset :: writeStream pulses) s
    (∀ r ∈ written.1, r.status = .ok) → written.2.gen.lossy = false →
    (∀ c, s.params.parBufCap = some c → written.2.gen.sink.length ≤ c) →
      let g := written.2.gen
      let read := performAll (.parReset :: readStream g.sink (pulses.length + 1)) written.2
      let p := read.2.par
      read.1.drop (g.sink.length + 2) = pulses.map (fun v => ⟨.ok, [v]⟩) ++ [⟨.endOfStream, []⟩]
        ∧ p.version = g.version ∧ p.machine = computerCode g.machine ∧ p.video = videoCode g.video
        ∧ p.profile = g.profile ∧ (p.halfWaves = true ↔ g.profile = .tapV2)
        ∧ (isTap g.profile = true →
          p.dataLen.toNat = g.sink.length - 20 ∧ p.rate = rateLookup (rateDec s.params) g.machine g.video
            ∧ p.bps = 0#8)
        ∧ (∀ b, g.profile = .dmp b → p.rate = s.gen.rateReg ∧ p.bps.toNat = b)

/-! ### Invariants of every step -/

/-- Every step keeps what ENC's rules allow (10_state.md R117, 41_encoder.md R513). -/
def Obligations.StepKeepsEncOk : Prop :=
  ∀ s t : State, EncOk s.params s.enc → step s = .next t → EncOk t.params t.enc

/-- Every step keeps what DEC's rules allow (10_state.md R124). -/
def Obligations.StepKeepsDecOk : Prop :=
  ∀ s t : State, DecOk s.params s.dec → step s = .next t → DecOk t.params t.dec

/-- Every step keeps what GEN's rules allow (10_state.md R135). -/
def Obligations.StepKeepsGenOk : Prop :=
  ∀ s t : State, SpecConstants s.params → GenOk s.params s.gen → step s = .next t → GenOk t.params t.gen

/-- Every step keeps what PAR's rules allow (10_state.md R143). -/
def Obligations.StepKeepsParOk : Prop :=
  ∀ s t : State, SpecConstants s.params → ParOk s.params s.par → step s = .next t → ParOk t.params t.par

/-- The power-on state holds what the rules of every unit allow (70_reset_and_hazards.md R1001). -/
def Obligations.PowerOnStateIsOk : Prop := StateOk State.reset
end

