-- ==== Sys2Proof/Laws/Decode.lean ====
section
/-! SUPPORT. The fields of an assembled command word and the small facts of the decoder. -/

namespace Sys2Proof.Laws

theorem opField_toNat (w : CommandWord) : (opField w).toNat = w.toNat / 2 ^ 40 := by
  have h := w.isLt
  simp [opField, BitVec.extractLsb'_toNat, Nat.shiftRight_eq_div_pow]
  omega

theorem auxField_toNat (w : CommandWord) : (auxField w).toNat = w.toNat / 2 ^ 32 % 2 ^ 8 := by
  simp [auxField, BitVec.extractLsb'_toNat, Nat.shiftRight_eq_div_pow]

theorem dataField_toNat (w : CommandWord) : (dataField w).toNat = w.toNat % 2 ^ 32 := by
  simp [dataField, BitVec.extractLsb'_toNat]

theorem assemble_toNat (op aux : Byte) (data : Word) :
    (assemble op aux data).toNat = op.toNat * 2 ^ 40 + aux.toNat * 2 ^ 32 + data.toNat := by
  have h1 := op.isLt
  have h2 := aux.isLt
  have h3 := data.isLt
  simp only [assemble, BitVec.toNat_ofNat]
  omega

@[simp] theorem opField_assemble (op aux : Byte) (data : Word) : opField (assemble op aux data) = op := by
  have h2 := aux.isLt
  have h3 := data.isLt
  apply BitVec.eq_of_toNat_eq
  rw [opField_toNat, assemble_toNat]
  omega

@[simp] theorem auxField_assemble (op aux : Byte) (data : Word) : auxField (assemble op aux data) = aux := by
  have h2 := aux.isLt
  have h3 := data.isLt
  apply BitVec.eq_of_toNat_eq
  rw [auxField_toNat, assemble_toNat]
  omega

@[simp] theorem dataField_assemble (op aux : Byte) (data : Word) : dataField (assemble op aux data) = data := by
  have h3 := data.isLt
  apply BitVec.eq_of_toNat_eq
  rw [dataField_toNat, assemble_toNat]
  omega

/-- A command word is its three fields (30_encoding.md R301). -/
theorem assemble_fields (w : CommandWord) : assemble (opField w) (auxField w) (dataField w) = w := by
  apply BitVec.eq_of_toNat_eq
  rw [assemble_toNat, opField_toNat, auxField_toNat, dataField_toNat]
  omega

/-- The decoder reads an assembled word by its fields. -/
theorem decode_assemble (op aux : Byte) (data : Word) : decode (assemble op aux data) = decodeFields op aux data := by
  simp [decode]

end Sys2Proof.Laws
end

