-- ==== Sys2Proof/Laws/State.lean ====
section
/-! SUPPORT. The fields of every named update of the state, each by `rfl` or by cases on a fault, so that no later proof
unfolds a record update. -/

namespace Sys2Proof.Laws

open Sys2Proof.Machine

@[simp] theorem faultEffect_params (f : UnitFault) (s : State) : (faultEffect f s).params = s.params := by
  cases f <;> rfl

@[simp] theorem faultEffect_port (f : UnitFault) (s : State) : (faultEffect f s).port = s.port := by
  cases f <;> rfl

@[simp] theorem faultEffect_response (f : UnitFault) (s : State) : (faultEffect f s).response = s.response := by
  cases f <;> rfl

@[simp] theorem faultEffect_counterOverflow (s : State) :
    faultEffect .counterOverflow s = { s with enc := { s.enc with fCntOvf := true, mode := .faulted } } := rfl

@[simp] theorem faultEffect_decZeroPulse (s : State) :
    faultEffect .decZeroPulse s = { s with dec := { s.dec with fZero := true, mode := .faulted } } := rfl

@[simp] theorem faultEffect_genZeroPulse (s : State) :
    faultEffect .genZeroPulse s = { s with gen := { s.gen with fZero := true, mode := .faulted } } := rfl

@[simp] theorem faultEffect_unsupportedConfig (s : State) :
    faultEffect .unsupportedConfig s = { s with gen := { s.gen with fUnsupported := true, mode := .faulted } } := rfl

@[simp] theorem faultEffect_lengthOverflow (s : State) :
    faultEffect .lengthOverflow s = { s with gen := { s.gen with fLength := true, mode := .faulted } } := rfl

@[simp] theorem faultEffect_invalidHeader (err : ParErr) (s : State) :
    faultEffect (.invalidHeader err) s = { s with par := { s.par with err := err, mode := .invalid } } := rfl

@[simp] theorem faultEffect_invalidField (s : State) :
    faultEffect .invalidField s = { s with par := { s.par with err := .badField, mode := .invalid } } := rfl

@[simp] theorem faultEffect_pulseOverflow (s : State) :
    faultEffect .pulseOverflow s = { s with par := { s.par with err := .pulseOverflow, mode := .invalid } } := rfl

@[simp] theorem faultEffect_truncatedAtEos (s : State) :
    faultEffect .truncatedAtEos s = { s with par := { s.par with trailing := true, mode := .done } } := rfl

@[simp] theorem encUnitReset_ctrl (e : Enc) : (encUnitReset e).ctrl = e.ctrl := rfl

@[simp] theorem encUnitReset_sens (e : Enc) : (encUnitReset e).sens = e.sens := rfl

@[simp] theorem encUnitReset_minDur (e : Enc) : (encUnitReset e).minDur = e.minDur := rfl

@[simp] theorem encUnitReset_thresh (e : Enc) : (encUnitReset e).thresh = e.thresh := rfl

@[simp] theorem encUnitReset_mode (e : Enc) : (encUnitReset e).mode = .running := rfl

@[simp] theorem encUnitReset_armed (e : Enc) : (encUnitReset e).armed = false := rfl

@[simp] theorem encUnitReset_dir (e : Enc) : (encUnitReset e).dir = .up := rfl

@[simp] theorem encUnitReset_ext (e : Enc) : (encUnitReset e).ext = 0 := rfl

@[simp] theorem encUnitReset_level (e : Enc) : (encUnitReset e).level = 0 := rfl

@[simp] theorem encUnitReset_count (e : Enc) : (encUnitReset e).count = 0 := rfl

@[simp] theorem encUnitReset_fCntOvf (e : Enc) : (encUnitReset e).fCntOvf = false := rfl

@[simp] theorem decUnitReset_ctrl (d : Dec) : (decUnitReset d).ctrl = d.ctrl := rfl

@[simp] theorem decUnitReset_volume (d : Dec) : (decUnitReset d).volume = d.volume := rfl

@[simp] theorem decUnitReset_mode (d : Dec) : (decUnitReset d).mode = .running := rfl

@[simp] theorem decUnitReset_plen (d : Dec) : (decUnitReset d).plen = 0 := rfl

@[simp] theorem decUnitReset_rem (d : Dec) : (decUnitReset d).rem = 0 := rfl

@[simp] theorem decUnitReset_nextSign (d : Dec) : (decUnitReset d).nextSign = .pos := rfl

@[simp] theorem decUnitReset_curSign (d : Dec) : (decUnitReset d).curSign = .pos := rfl

@[simp] theorem decUnitReset_curHalf (d : Dec) : (decUnitReset d).curHalf = false := rfl

@[simp] theorem decUnitReset_fZero (d : Dec) : (decUnitReset d).fZero = false := rfl

@[simp] theorem genUnitReset_cfg (g : Gen) : (genUnitReset g).cfg = g.cfg := rfl

@[simp] theorem genUnitReset_rateReg (g : Gen) : (genUnitReset g).rateReg = g.rateReg := rfl

@[simp] theorem genUnitReset_mode (g : Gen) : (genUnitReset g).mode = .idle := rfl

@[simp] theorem genUnitReset_profile (g : Gen) : (genUnitReset g).profile = .tapV0 := rfl

@[simp] theorem genUnitReset_hdr (g : Gen) : (genUnitReset g).hdr = List.replicate 20 0#8 := rfl

@[simp] theorem genUnitReset_sink (g : Gen) : (genUnitReset g).sink = [] := rfl

@[simp] theorem genUnitReset_rate (g : Gen) : (genUnitReset g).rate = 0#32 := rfl

@[simp] theorem genUnitReset_version (g : Gen) : (genUnitReset g).version = 0#8 := rfl

@[simp] theorem genUnitReset_machine (g : Gen) : (genUnitReset g).machine = .c64 := rfl

@[simp] theorem genUnitReset_video (g : Gen) : (genUnitReset g).video = .pal := rfl

@[simp] theorem genUnitReset_lossy (g : Gen) : (genUnitReset g).lossy = false := rfl

@[simp] theorem genUnitReset_fUnsupported (g : Gen) : (genUnitReset g).fUnsupported = false := rfl

@[simp] theorem genUnitReset_fZero (g : Gen) : (genUnitReset g).fZero = false := rfl

@[simp] theorem genUnitReset_fLength (g : Gen) : (genUnitReset g).fLength = false := rfl

@[simp] theorem genStarted_cfg (g : Gen) (p : StreamPlan) : (genStarted g p).cfg = g.cfg := rfl

@[simp] theorem genStarted_rateReg (g : Gen) (p : StreamPlan) : (genStarted g p).rateReg = g.rateReg := rfl

@[simp] theorem genStarted_fUnsupported (g : Gen) (p : StreamPlan) : (genStarted g p).fUnsupported = g.fUnsupported := rfl

@[simp] theorem genStarted_fZero (g : Gen) (p : StreamPlan) : (genStarted g p).fZero = g.fZero := rfl

@[simp] theorem genStarted_fLength (g : Gen) (p : StreamPlan) : (genStarted g p).fLength = g.fLength := rfl

@[simp] theorem genStarted_profile (g : Gen) (p : StreamPlan) : (genStarted g p).profile = p.profile := rfl

@[simp] theorem genStarted_hdr (g : Gen) (p : StreamPlan) : (genStarted g p).hdr = p.hdr := rfl

@[simp] theorem genStarted_rate (g : Gen) (p : StreamPlan) : (genStarted g p).rate = p.rate := rfl

@[simp] theorem genStarted_version (g : Gen) (p : StreamPlan) : (genStarted g p).version = p.version := rfl

@[simp] theorem genStarted_machine (g : Gen) (p : StreamPlan) : (genStarted g p).machine = p.machine := rfl

@[simp] theorem genStarted_video (g : Gen) (p : StreamPlan) : (genStarted g p).video = p.video := rfl

@[simp] theorem genStarted_mode (g : Gen) (p : StreamPlan) : (genStarted g p).mode = .writing := rfl

@[simp] theorem genStarted_lossy (g : Gen) (p : StreamPlan) : (genStarted g p).lossy = false := rfl

@[simp] theorem writeEncCtrl_sens (v : Word) (e : Enc) : (writeEncCtrl v e).sens = e.sens := by
  unfold writeEncCtrl; dsimp only; split <;> rfl

@[simp] theorem writeEncCtrl_minDur (v : Word) (e : Enc) : (writeEncCtrl v e).minDur = e.minDur := by
  unfold writeEncCtrl; dsimp only; split <;> rfl

@[simp] theorem writeEncCtrl_thresh (v : Word) (e : Enc) : (writeEncCtrl v e).thresh = e.thresh := by
  unfold writeEncCtrl; dsimp only; split <;> rfl

@[simp] theorem writeEncCtrl_mode (v : Word) (e : Enc) : (writeEncCtrl v e).mode = e.mode := by
  unfold writeEncCtrl; dsimp only; split <;> rfl

@[simp] theorem writeEncCtrl_armed (v : Word) (e : Enc) : (writeEncCtrl v e).armed = e.armed := by
  unfold writeEncCtrl; dsimp only; split <;> rfl

@[simp] theorem writeEncCtrl_level (v : Word) (e : Enc) : (writeEncCtrl v e).level = e.level := by
  unfold writeEncCtrl; dsimp only; split <;> rfl

@[simp] theorem writeEncCtrl_count (v : Word) (e : Enc) : (writeEncCtrl v e).count = e.count := by
  unfold writeEncCtrl; dsimp only; split <;> rfl

@[simp] theorem writeEncCtrl_fCntOvf (v : Word) (e : Enc) : (writeEncCtrl v e).fCntOvf = e.fCntOvf := by
  unfold writeEncCtrl; dsimp only; split <;> rfl

@[simp] theorem writeEncCtrl_ctrl (v : Word) (e : Enc) : (writeEncCtrl v e).ctrl = legalEncCtrl v := by
  unfold writeEncCtrl; dsimp only; split <;> rfl

@[simp] theorem recordHeader_buf (params : Config.Params) (h : List Byte) (fmt : Format) (fam : Family)
    (p : Par) :
    (recordHeader params h fmt fam p).buf = p.buf := by cases fmt <;> rfl

@[simp] theorem recordHeader_eos (params : Config.Params) (h : List Byte) (fmt : Format) (fam : Family)
    (p : Par) :
    (recordHeader params h fmt fam p).eos = p.eos := by cases fmt <;> rfl

@[simp] theorem recordHeader_err (params : Config.Params) (h : List Byte) (fmt : Format) (fam : Family)
    (p : Par) :
    (recordHeader params h fmt fam p).err = p.err := by cases fmt <;> rfl

@[simp] theorem recordHeader_trailing (params : Config.Params) (h : List Byte) (fmt : Format) (fam : Family)
    (p : Par) :
    (recordHeader params h fmt fam p).trailing = p.trailing := by cases fmt <;> rfl

@[simp] theorem recordHeader_mode (params : Config.Params) (h : List Byte) (fmt : Format) (fam : Family)
    (p : Par) :
    (recordHeader params h fmt fam p).mode = .streamingPulses := by cases fmt <;> rfl

@[simp] theorem recordHeader_cur (params : Config.Params) (h : List Byte) (fmt : Format) (fam : Family)
    (p : Par) :
    (recordHeader params h fmt fam p).cur = params.headerSize := by cases fmt <;> rfl

@[simp] theorem recordHeader_format (params : Config.Params) (h : List Byte) (fmt : Format) (fam : Family)
    (p : Par) :
    (recordHeader params h fmt fam p).format = fmt := by cases fmt <;> rfl

@[simp] theorem recordHeader_family (params : Config.Params) (h : List Byte) (fmt : Format) (fam : Family)
    (p : Par) :
    (recordHeader params h fmt fam p).family = fam := by cases fmt <;> rfl

@[simp] theorem recordHeader_version (params : Config.Params) (h : List Byte) (fmt : Format) (fam : Family)
    (p : Par) :
    (recordHeader params h fmt fam p).version = byteAt h 12 := by cases fmt <;> rfl

@[simp] theorem recordHeader_machine (params : Config.Params) (h : List Byte) (fmt : Format) (fam : Family)
    (p : Par) :
    (recordHeader params h fmt fam p).machine = byteAt h 13 := by cases fmt <;> rfl

@[simp] theorem recordHeader_video (params : Config.Params) (h : List Byte) (fmt : Format) (fam : Family)
    (p : Par) :
    (recordHeader params h fmt fam p).video = byteAt h 14 := by cases fmt <;> rfl

end Sys2Proof.Laws
end

