-- ==== Sys2Proof/Laws/Ops.lean ====
section
/-! SUPPORT. What each shared operation does, said once: the two ways a command ends, the sink write, the byte
sequences as cells in canonical form, the little-endian fields and the register map. -/

namespace Sys2Proof.Laws

open Sys2Proof.Machine

/-- A command that responds changes the response and nothing else. -/
theorem respond_eq (st : Status) (words : List Word) (s : State) :
    respond st words s = .next { s with response := ⟨st, words⟩ } := rfl

/-- A refusal changes the response and nothing else (60_exceptions.md R905). -/
theorem refuse_eq (st : Status) (s : State) :
    refuse st s = .next { s with response := ⟨st, []⟩ } := rfl

/-- A raise answers the faulted state with the fault's status and no words (60_exceptions.md section 3). -/
theorem raise_eq (f : UnitFault) (s : State) :
    raise f s = .next { faultEffect f s with response := ⟨faultStatus f, []⟩ } := rfl

/-- `2^W_CNT - 1` at the spec's width (41_encoder.md R512). -/
theorem cntMax_of_spec {params : Config.Params} (h : params.wCnt = 32) : Config.cntMax params = 4294967295 := by
  simp [Config.cntMax, h]

/-- `PULSE_MAX` at the spec's width (00_scope.md R8). -/
theorem pulseMax_of_spec {params : Config.Params} (h : params.wPulse = 32) : Config.pulseMax params = 4294967295 := by
  simp [Config.pulseMax, h]

/-- A sample operand at the spec's width is `as_int` of it (00_scope.md R11). -/
theorem sampleOperand_of_spec {params : Config.Params} (h : params.wSample = 32) (data : Word) :
    sampleOperand params data = data.toInt := by
  rw [sampleOperand, asInt, h]
  exact Int.bmod_eq_of_le (BitVec.le_toInt data) (by have := BitVec.toInt_lt (x := data); omega)

/-- An output sample's word at the spec's width is `to_word32` of it (00_scope.md R11). -/
theorem sampleWord_of_spec {params : Config.Params} (h : params.wSample = 32) (v : Int) :
    sampleWord params v = BitVec.ofInt 32 v := by
  rw [sampleWord, toWord32, h, ← BitVec.toInt_ofInt, BitVec.ofInt_toInt]

/-- A pulse operand at the spec's width is the whole operand (00_scope.md R8). -/
theorem pulseOperand_of_spec {params : Config.Params} (h : params.wPulse = 32) (data : Word) :
    pulseOperand params data = data.toNat := by
  rw [pulseOperand, h, Nat.mod_eq_of_lt data.isLt]

/-- A pulse operand is at most `PULSE_MAX`, at every width (00_scope.md R8). -/
theorem pulseOperand_le (params : Config.Params) (data : Word) : pulseOperand params data ≤ Config.pulseMax params :=
  Nat.le_sub_one_of_lt (Nat.mod_lt _ (Nat.two_pow_pos _))

@[simp] theorem tapSectionMax_eq : Config.tapSectionMax = 4294967295 := rfl

/-- A natural that fits a data word is read back from it. -/
theorem natWord_toNat {n : Nat} (h : n < 2 ^ 32) : (natWord n).toNat = n := by
  simpa [natWord] using h

/-- `SinkWrite` at the end of the sink appends (20_memory.md R206). -/
@[simp] theorem sinkWrite_end (sink bytes : List Byte) : sinkWrite sink sink.length bytes = sink ++ bytes := by
  simp [sinkWrite]

/-- `SinkWrite` at offset 0 replaces the head of the sink (20_memory.md R206). -/
theorem sinkWrite_zero (sink bytes : List Byte) : sinkWrite sink 0 bytes = bytes ++ sink.drop bytes.length := by
  simp [sinkWrite]

/-- The length after a `SinkWrite` (20_memory.md R206). -/
theorem sinkWrite_length {sink : List Byte} {off : Nat} (bytes : List Byte) (h : off ≤ sink.length) :
    (sinkWrite sink off bytes).length = max sink.length (off + bytes.length) := by
  simp [sinkWrite]; omega

/-- Reading a byte inside the written range gives the written byte (20_memory.md R206). -/
theorem sinkWrite_read_inside {sink bytes : List Byte} {off j : Nat} (h : off ≤ sink.length) (hj : j < bytes.length) :
    readByte (sinkWrite sink off bytes) (off + j) = bytes[j]? := by
  have ht : (sink.take off).length = off := by simp [h]
  unfold readByte sinkWrite
  rw [List.append_assoc, List.getElem?_append_right (by omega), ht, Nat.add_sub_cancel_left,
    List.getElem?_append_left hj]

/-- Reading a byte outside the written range gives what it gave before (20_memory.md R206). -/
theorem sinkWrite_read_outside {sink bytes : List Byte} {off i : Nat} (h : off ≤ sink.length)
    (hi : i < off ∨ off + bytes.length ≤ i) : readByte (sinkWrite sink off bytes) i = readByte sink i := by
  have ht : (sink.take off).length = off := by simp [h]
  unfold readByte sinkWrite
  rcases hi with hi | hi
  · rw [List.append_assoc, List.getElem?_append_left (by omega), List.getElem?_take_of_lt hi]
  · rw [List.getElem?_append_right (by simp [ht]; omega), List.getElem?_drop]
    congr 1
    simp [ht]; omega

/-- Every cell of a byte sequence lies at or above its first address. -/
theorem cellsFrom_ge (a : Nat) (bytes : List Byte) : ∀ c ∈ cellsFrom a bytes, a ≤ c.1 := by
  induction bytes generalizing a with
  | nil => simp [cellsFrom]
  | cons b rest ih =>
    intro c hc
    rcases List.mem_cons.mp hc with rfl | hc
    · exact Nat.le_refl a
    · exact Nat.le_of_succ_le (ih (a + 1) c hc)

/-- The cells of a byte sequence are in canonical form, whatever operation made the sequence. -/
theorem cellsFrom_wf (a : Nat) (bytes : List Byte) : Memory.wf (cellsFrom a bytes) = true := by
  induction bytes generalizing a with
  | nil => rfl
  | cons b rest ih =>
    simp only [cellsFrom, Memory.wf, Bool.and_eq_true, List.all_eq_true, decide_eq_true_eq]
    exact ⟨fun c hc => cellsFrom_ge (a + 1) rest c hc, ih (a + 1)⟩

/-- The cells of a byte sequence hold its bytes, address for offset. -/
theorem cellsFrom_read (a i : Nat) (bytes : List Byte) :
    Memory.read (cellsFrom a bytes) (a + i) = readByte bytes i := by
  induction bytes generalizing a i with
  | nil => rfl
  | cons b rest ih =>
    cases i with
    | zero => simp [cellsFrom, Memory.read, readByte]
    | succ j =>
      have h := ih (a + 1) j
      rw [show a + 1 + j = a + (j + 1) by omega] at h
      simp [cellsFrom, Memory.read, readByte] at h ⊢
      exact h

/-- The sink of every state is canonical as cells, so no operation can break the form. -/
theorem sink_cells_wf (s : State) : Memory.wf (cellsFrom 0 s.gen.sink) = true := cellsFrom_wf 0 _

/-- The input buffer of every state is canonical as cells, so no operation can break the form. -/
theorem buf_cells_wf (s : State) : Memory.wf (cellsFrom 0 s.par.buf) = true := cellsFrom_wf 0 _

/-- The cells after a write at the end are the old cells and the new ones behind them. -/
theorem cellsFrom_append (a : Nat) (xs ys : List Byte) :
    cellsFrom a (xs ++ ys) = cellsFrom a xs ++ cellsFrom (a + xs.length) ys := by
  induction xs generalizing a with
  | nil => rfl
  | cons b rest ih => simp [cellsFrom, ih, show a + 1 + rest.length = a + (rest.length + 1) by omega]

@[simp] theorem leBytes_length (n v : Nat) : (leBytes n v).length = n := by
  induction n generalizing v with
  | zero => rfl
  | succ n ih => simp [leBytes, ih]

/-- Little-endian bytes read back as the value they were written from (00_scope.md R12). -/
theorem fromLE_leBytes (n v : Nat) : fromLE (leBytes n v) = v % 256 ^ n := by
  induction n generalizing v with
  | zero => simp [leBytes, fromLE, Nat.mod_one]
  | succ n ih =>
    simp only [leBytes, fromLE, ih, BitVec.toNat_ofNat, show (2 : Nat) ^ 8 = 256 from rfl]
    rw [Nat.pow_succ' (n := n), Nat.mod_mul]

/-- A value that fits its bytes is read back exactly (00_scope.md R12). -/
theorem fromLE_leBytes_of_lt {n v : Nat} (h : v < 256 ^ n) : fromLE (leBytes n v) = v := by
  rw [fromLE_leBytes, Nat.mod_eq_of_lt h]

/-- `n` bytes stand for a value below `256^n` (00_scope.md R12). -/
theorem fromLE_lt (bytes : List Byte) : fromLE bytes < 256 ^ bytes.length := by
  induction bytes with
  | nil => simp [fromLE]
  | cons b rest ih =>
    have hb := b.isLt
    simp only [fromLE, List.length_cons, Nat.pow_succ]
    omega

/-- The register map read back from a register's number (10_state.md R106). -/
@[simp] theorem regOfNumber_regNumber (r : Reg) : regOfNumber (regNumber r) = some r := by
  cases r <;> rfl

/-- A number names at most the register that has it (10_state.md R106). -/
theorem regOfNumber_some {n : Byte} {r : Reg} (h : regOfNumber n = some r) : regNumber r = n := by
  have hn : n = BitVec.ofNat 8 n.toNat := by simp
  unfold regOfNumber at h
  split at h <;>
    first
    | (rename_i hv; rw [hv] at hn; injection h with h; subst h; exact hn.symm)
    | cases h

/-- Everything a register write can do: it writes the one unit of the register and leaves the parameters, the port and
the response (40_control.md R402). -/
theorem writeReg_frame {r : Reg} {v : Word} {s s' : State} (h : writeReg r v s = some s') :
    s'.params = s.params ∧ s'.port = s.port ∧ s'.response = s.response ∧ s'.par = s.par ∧
      (s'.enc = s.enc ∨ s'.dec = s.dec ∧ s'.gen = s.gen) ∧ (s'.dec = s.dec ∨ s'.enc = s.enc ∧ s'.gen = s.gen) ∧
      (s'.gen = s.gen ∨ s'.enc = s.enc ∧ s'.dec = s.dec) := by
  cases r <;> simp only [writeReg, Option.some.injEq, reduceCtorEq] at h <;> subst h <;> simp

end Sys2Proof.Laws
end

