-- ==== Sys2Proof/Laws/Overflow.lean ====
section
/-! SUPPORT. The overflow codec against the loops of its rules, and the facts its proofs share: what one field is, that
the number of rounds does not matter, and how the zero run and the repeated field unroll. -/

namespace Sys2Proof.Laws

open Sys2Proof.Machine

@[simp] theorem repeatField_zero (field : List Byte) : repeatField 0 field = [] := rfl

@[simp] theorem repeatField_succ (n : Nat) (field : List Byte) :
    repeatField (n + 1) field = field ++ repeatField n field := by
  simp [repeatField, List.replicate_succ]

@[simp] theorem repeatField_length (n : Nat) (field : List Byte) :
    (repeatField n field).length = n * field.length := by
  simp [repeatField]

@[simp] theorem tapWideField_length (w : Nat) : (tapWideField w).length = 4 := by
  simp [tapWideField]

/-- The loop of 43_overflow_codec.md R710: while the pulse is at least the sentinel, one maximal field is written and
the sentinel subtracted. -/
theorem encodeTapV1_loop {params : Config.Params} (hs : 1 ≤ params.tapWideSentinel) (p : Nat) :
    encodeTapV1 params p =
      if params.tapWideSentinel ≤ p then
        tapWideField params.tapWideSentinel ++ encodeTapV1 params (p - params.tapWideSentinel)
      else tapFinalField params p := by
  unfold encodeTapV1
  split
  · next h =>
    rw [Nat.div_eq_sub_div (by omega) h, repeatField_succ, Nat.mod_eq_sub_mod h, List.append_assoc]
  · next h =>
    rw [Nat.div_eq_of_lt (by omega), Nat.mod_eq_of_lt (by omega)]
    rfl

theorem dmpSentinel_pos {b : Nat} (hb : 1 ≤ b) : 1 ≤ dmpSentinel b := by
  have h : 2 ^ 1 ≤ 2 ^ b := Nat.pow_le_pow_right (by omega) hb
  simp only [dmpSentinel]
  omega

theorem dmpFieldBytes_pos {b : Nat} (hb : 1 ≤ b) : 1 ≤ dmpFieldBytes b := by
  simp only [dmpFieldBytes]
  omega

/-- The sentinel fits its field (43_overflow_codec.md R705). -/
theorem dmpSentinel_lt (b : Nat) : dmpSentinel b < 256 ^ dmpFieldBytes b := by
  have h : (256 : Nat) ^ dmpFieldBytes b = 2 ^ (8 * dmpFieldBytes b) := by
    rw [Nat.pow_mul]
  have h2 : b ≤ 8 * dmpFieldBytes b := by simp only [dmpFieldBytes]; omega
  have h3 : 2 ^ b ≤ 2 ^ (8 * dmpFieldBytes b) := Nat.pow_le_pow_right (by omega) h2
  have h4 : 0 < 2 ^ b := Nat.pow_pos (by omega)
  simp only [dmpSentinel]
  omega

/-- The loop of 43_overflow_codec.md R714: while the pulse is at least the sentinel, one sentinel field is written and
the sentinel subtracted. -/
theorem encodeDmp_loop {b : Nat} (hb : 1 ≤ b) (p : Nat) :
    encodeDmp b p =
      if dmpSentinel b ≤ p then
        leBytes (dmpFieldBytes b) (dmpSentinel b) ++ encodeDmp b (p - dmpSentinel b)
      else leBytes (dmpFieldBytes b) p := by
  have hs := dmpSentinel_pos hb
  unfold encodeDmp
  split
  · next h =>
    rw [Nat.div_eq_sub_div (by omega) h, repeatField_succ, Nat.mod_eq_sub_mod h, List.append_assoc]
  · next h =>
    rw [Nat.div_eq_of_lt (by omega), Nat.mod_eq_of_lt (by omega)]
    rfl

/-- A field reader whose every field is one byte or more and lies inside the bytes it reads. -/
structure FieldSound (field : List Byte → Field) : Prop where
  empty : field [] = .incomplete
  last_size : ∀ bytes value size, field bytes = .last value size → 1 ≤ size ∧ size ≤ bytes.length
  continues_size : ∀ bytes value size, field bytes = .continues value size → 1 ≤ size ∧ size ≤ bytes.length

/-- The TAP v1/v2 fields are one or four bytes (30_encoding.md R333). -/
theorem tapV1Field_sound (params : Config.Params) : FieldSound (tapV1Field params) where
  empty := rfl
  last_size := by
    intro bytes value size h
    unfold tapV1Field at h
    split at h
    · cases h
    · next b rest =>
      split at h
      · cases h; simp
      · split at h
        · cases h
        · dsimp only at h
          split at h
          · cases h
          · cases h; simp; omega
  continues_size := by
    intro bytes value size h
    unfold tapV1Field at h
    split at h
    · cases h
    · next b rest =>
      split at h
      · cases h
      · split at h
        · cases h
        · dsimp only at h
          split at h
          · cases h; simp; omega
          · cases h

/-- The DMP fields are `N` bytes (30_encoding.md R335). -/
theorem dmpField_sound {b : Nat} (hb : 1 ≤ b) : FieldSound (dmpField b) where
  empty := by
    have hN := dmpFieldBytes_pos hb
    simp [dmpField]
    omega
  last_size := by
    intro bytes value size h
    have hN := dmpFieldBytes_pos hb
    unfold dmpField at h
    dsimp only at h
    split at h
    · cases h
    · split at h
      · cases h
      · split at h
        · cases h
        · cases h; omega
  continues_size := by
    intro bytes value size h
    have hN := dmpFieldBytes_pos hb
    unfold dmpField at h
    dsimp only at h
    split at h
    · cases h
    · split at h
      · cases h
      · split at h
        · cases h; omega
        · cases h

/-- Any number of rounds from the number of bytes on gives the same outcome, so the bound of `ovfDecode` cuts no pulse
short. -/
theorem ovfFields_fuel (params : Config.Params) {field : List Byte → Field} (hf : FieldSound field)
      {n m : Nat} (acc : Nat) {bytes : List Byte}
    (next : Nat) (hn : bytes.length ≤ n) (hm : bytes.length ≤ m) :
    ovfFields params field n acc bytes next = ovfFields params field m acc bytes next := by
  have none_left : ∀ k acc next, ovfFields params field k acc [] next = .needMore := by
    intro k acc next
    cases k <;> simp [ovfFields, hf.empty]
  induction n generalizing m acc bytes next with
  | zero =>
    have hnil : bytes = [] := List.length_eq_zero_iff.mp (by omega)
    subst hnil
    rw [none_left, none_left]
  | succ n ih =>
    cases m with
    | zero =>
      have hnil : bytes = [] := List.length_eq_zero_iff.mp (by omega)
      subst hnil
      rw [none_left, none_left]
    | succ m =>
      unfold ovfFields
      split
      · rfl
      · rfl
      · rfl
      · next value size hc =>
        have hsz := hf.continues_size _ _ _ hc
        split
        · rfl
        · exact ih _ _ (by simp; omega) (by simp; omega)

/-- A final accumulator that is a pulse (43_overflow_codec.md R722). -/
theorem ovfFinal_pulse {params : Config.Params} {acc next v j : Nat} (h : ovfFinal params acc next = .pulse v j) :
    v = acc ∧ j = next ∧ 1 ≤ v ∧ v ≤ Config.pulseMax params := by
  unfold ovfFinal at h
  split at h
  · cases h
  · split at h
    · cases h
    · cases h; omega

/-- A final accumulator that is skipped (43_overflow_codec.md R734). -/
theorem ovfFinal_skip {params : Config.Params} {acc next j : Nat} (h : ovfFinal params acc next = .skip j) : acc = 0
      ∧ j = next := by
  unfold ovfFinal at h
  split at h
  · cases h
  · split at h
    · cases h; omega
    · cases h

/-- A final accumulator of a pulse in range (43_overflow_codec.md R722). -/
theorem ovfFinal_of_range {params : Config.Params} {acc next : Nat} (h1 : 1 ≤ acc)
    (h2 : acc ≤ Config.pulseMax params) : ovfFinal params acc next = .pulse acc next := by
  unfold ovfFinal
  rw [if_neg (by omega), if_neg (by omega)]

theorem zeroRun_le (bytes : List Byte) : zeroRun bytes ≤ bytes.length := by
  induction bytes with
  | nil => simp [zeroRun]
  | cons b rest ih =>
    simp only [zeroRun, List.length_cons]
    split <;> omega

theorem zeroRun_replicate (n : Nat) (rest : List Byte) :
    zeroRun (List.replicate n 0#8 ++ rest) = n + zeroRun rest := by
  induction n with
  | zero => simp
  | succ n ih =>
    simp only [List.replicate_succ, List.cons_append, zeroRun, ih, if_true]
    omega

end Sys2Proof.Laws
end

