-- ==== Sys2Proof/Laws/PerInstr.lean ====
section
/-! SUPPORT. The facts that hold of every command, one lemma per constructor of `Instr`. -/

namespace Sys2Proof.Laws

/-- The word of a command is a legal command word (30_encoding.md R302 to R305). -/
def EncodesLegally.Statement (i : Instr) : Prop := commandWellFormed (encode i) = true

/-- The legality of a word, read off its three fields (30_encoding.md R302 to R305). -/
theorem commandWellFormed_of_fields (w : CommandWord) {o a d : Nat} (ho : (opField w).toNat = o)
    (ha : (auxField w).toNat = a) (hd : (dataField w).toNat = d) :
    commandWellFormed w =
      match usedFields o with
      | none => false
      | some .neither => a == 0 && d == 0
      | some .aux => d == 0
      | some .data => a == 0
      | some .dataByte => a == 0 && d / 2 ^ 8 == 0
      | some .auxAndData => true := by
  rw [opField_toNat] at ho
  rw [auxField_toNat] at ha
  rw [dataField_toNat] at hd
  subst ho ha hd
  unfold commandWellFormed opAssigned unusedFieldsZero
  cases usedFields (w.toNat / 2 ^ 40) with
  | none => rfl
  | some u => cases u <;> rfl

/-- The legality of an assembled word, read off the fields it was assembled from. -/
theorem commandWellFormed_assemble (op aux : Byte) (data : Word) :
    commandWellFormed (assemble op aux data) =
      match usedFields op.toNat with
      | none => false
      | some .neither => aux.toNat == 0 && data.toNat == 0
      | some .aux => data.toNat == 0
      | some .data => aux.toNat == 0
      | some .dataByte => aux.toNat == 0 && data.toNat / 2 ^ 8 == 0
      | some .auxAndData => true :=
  commandWellFormed_of_fields _ (by rw [opField_assemble]) (by rw [auxField_assemble]) (by rw [dataField_assemble])

theorem EncodesLegally.nop : EncodesLegally.Statement .nop := by
  rw [EncodesLegally.Statement]
  decide

theorem EncodesLegally.cfgWr (reg : Byte) (value : Word) : EncodesLegally.Statement (.cfgWr reg value) := by
  simp only [EncodesLegally.Statement, encode, commandWellFormed_assemble]
  rfl

theorem EncodesLegally.cfgRd (reg : Byte) : EncodesLegally.Statement (.cfgRd reg) := by
  simp only [EncodesLegally.Statement, encode, commandWellFormed_assemble]
  rfl

theorem EncodesLegally.reset : EncodesLegally.Statement .reset := by
  rw [EncodesLegally.Statement]
  decide

theorem EncodesLegally.encSample (sample : Word) : EncodesLegally.Statement (.encSample sample) := by
  simp only [EncodesLegally.Statement, encode, commandWellFormed_assemble]
  rfl

theorem EncodesLegally.encFlush : EncodesLegally.Statement .encFlush := by
  rw [EncodesLegally.Statement]
  decide

theorem EncodesLegally.encReset : EncodesLegally.Statement .encReset := by
  rw [EncodesLegally.Statement]
  decide

theorem EncodesLegally.decPulse (pulse : Word) : EncodesLegally.Statement (.decPulse pulse) := by
  simp only [EncodesLegally.Statement, encode, commandWellFormed_assemble]
  rfl

theorem EncodesLegally.decPull (count : Word) : EncodesLegally.Statement (.decPull count) := by
  simp only [EncodesLegally.Statement, encode, commandWellFormed_assemble]
  rfl

theorem EncodesLegally.decReset : EncodesLegally.Statement .decReset := by
  rw [EncodesLegally.Statement]
  decide

theorem EncodesLegally.parByte (byte : Byte) : EncodesLegally.Statement (.parByte byte) := by
  have h := byte.isLt
  simp only [EncodesLegally.Statement, encode, commandWellFormed_assemble]
  simp [usedFields]
  omega

theorem EncodesLegally.parPull : EncodesLegally.Statement .parPull := by
  rw [EncodesLegally.Statement]
  decide

theorem EncodesLegally.parEos : EncodesLegally.Statement .parEos := by
  rw [EncodesLegally.Statement]
  decide

theorem EncodesLegally.parReset : EncodesLegally.Statement .parReset := by
  rw [EncodesLegally.Statement]
  decide

theorem EncodesLegally.genStart : EncodesLegally.Statement .genStart := by
  rw [EncodesLegally.Statement]
  decide

theorem EncodesLegally.genPulse (pulse : Word) : EncodesLegally.Statement (.genPulse pulse) := by
  simp only [EncodesLegally.Statement, encode, commandWellFormed_assemble]
  rfl

theorem EncodesLegally.genFinish : EncodesLegally.Statement .genFinish := by
  rw [EncodesLegally.Statement]
  decide

theorem EncodesLegally.genReset : EncodesLegally.Statement .genReset := by
  rw [EncodesLegally.Statement]
  decide

end Sys2Proof.Laws
end

