-- ==== Sys2Proof/Laws/Units.lean ====
section
/-! SUPPORT. What the operations inside one unit's commands do, said once: the detector, the sample count, the pull
loops, and that every command completes. -/

namespace Sys2Proof.Laws

open Sys2Proof.Machine

/-- Everything the detector changes: it leaves the registers, the mode, the count and the fault bit
(41_encoder.md R507, R509). -/
theorem encDetect_frame (e : Enc) (x : Int) :
    (encDetect e x).1.ctrl = e.ctrl ∧ (encDetect e x).1.sens = e.sens ∧ (encDetect e x).1.minDur = e.minDur ∧
      (encDetect e x).1.thresh = e.thresh ∧ (encDetect e x).1.mode = e.mode ∧ (encDetect e x).1.count = e.count ∧
      (encDetect e x).1.fCntOvf = e.fCntOvf := by
  unfold encDetect
  split
  · cases e.dir
    · simp only [encTrackUp]
      split
      · simp
      · split <;> simp
    · simp only [encTrackDown]
      split
      · simp
      · split <;> simp
  · simp only [encArm]
    split <;> simp

/-- An unarmed detector makes no turn (41_encoder.md R507). -/
theorem encDetect_unarmed {e : Enc} (h : e.armed = false) (x : Int) : encDetect e x = (encArm e x, none) := by
  simp [encDetect, h]

/-- A detector that tracks a maximum (41_encoder.md R509). -/
theorem encDetect_up {e : Enc} (h : e.armed = true) (hd : e.dir = .up) (x : Int) :
    encDetect e x = encTrackUp e x := by
  simp [encDetect, h, hd]

/-- A detector that tracks a minimum (41_encoder.md R509). -/
theorem encDetect_down {e : Enc} (h : e.armed = true) (hd : e.dir = .down) (x : Int) :
    encDetect e x = encTrackDown e x := by
  simp [encDetect, h, hd]

/-- A full counter faults the encoder (41_encoder.md R512, 60_exceptions.md R912). -/
theorem encCountSample_full {s : State} (words : List Word) (h : s.enc.count = Config.cntMax s.params) :
    encCountSample words s =
      .next { s with enc := { s.enc with fCntOvf := true, mode := .faulted }, response := ⟨.counterOverflow, []⟩ } := by
  simp only [encCountSample, if_pos h]
  rfl

/-- Any other counter counts the sample (41_encoder.md R512). -/
theorem encCountSample_counts {s : State} (words : List Word) (h : s.enc.count ≠ Config.cntMax s.params) :
    encCountSample words s =
      .next { s with enc := { s.enc with count := s.enc.count + 1 }, response := ⟨.ok, words⟩ } := by
  simp only [encCountSample, if_neg h]
  rfl

/-- The loop of `DEC.PULL`: the samples at the successive indices, and `m` fewer left (42_decoder.md R604). -/
theorem decPullLoop_eq (params : Config.Params) (m : Nat) (d : Dec) :
    decPullLoop params m d =
      ((List.range m).map (fun t => sampleWord params (decOut params d (d.plen - (d.rem - t)))), { d with rem :=
        d.rem - m }) := by
  induction m generalizing d with
  | zero => rfl
  | succ m ih =>
    have hout : ∀ k, decOut params { d with rem := d.rem - 1 } k = decOut params d k := fun _ => rfl
    simp only [decPullLoop, ih, hout, List.range_succ_eq_map, List.map_cons, List.map_map, Nat.sub_zero, Nat.sub_sub]
    simp only [Nat.add_comm 1, Prod.mk.injEq, List.cons.injEq, true_and, and_true]
    rfl

/-- `DEC.PULL` sends at most the samples left, and every one it sends is a sample of the current pulse
(42_decoder.md R604). -/
theorem decPullLoop_length (params : Config.Params) (m : Nat) (d : Dec) :
    (decPullLoop params m d).1.length = m := by
  simp [decPullLoop_eq]

/-- Before the end of input the `NeedMore` arm changes the response and nothing else (60_exceptions.md R908). -/
theorem parNeedMore_open {s : State} (h : s.par.eos = false) :
    parNeedMore s = .next { s with response := ⟨.needMore, []⟩ } := by
  simp [parNeedMore, h, respond_eq]

/-- After the end of input the `NeedMore` arm ends the stream and consumes nothing (44_framing.md R822, R824,
60_exceptions.md R917). -/
theorem parNeedMore_ended {s : State} (h : s.par.eos = true) :
    parNeedMore s =
      if s.par.cur = s.par.buf.length then
        .next { s with par := { s.par with mode := .done }, response := ⟨.endOfStream, []⟩ }
      else
        .next { s with par := { s.par with trailing := true, mode := .done }, response := ⟨.truncatedAtEos, []⟩ } := by
  rw [parNeedMore, if_neg (by simp [h])]
  split <;> rfl

/-- The `NeedMore` arm answers one of its three responses (44_framing.md R822). -/
theorem parNeedMore_next (s : State) : ∃ t, parNeedMore s = .next t := by
  unfold parNeedMore
  split
  · exact ⟨_, rfl⟩
  · split <;> exact ⟨_, rfl⟩

/-- The loop of `PAR.PULL` completes (44_framing.md R822). -/
theorem parPullLoop_next (fuel : Nat) (s : State) : ∃ t, parPullLoop fuel s = .next t := by
  induction fuel generalizing s with
  | zero => exact parNeedMore_next s
  | succ fuel ih =>
    unfold parPullLoop
    split
    · exact ⟨_, rfl⟩
    · exact ih _
    · exact ⟨_, rfl⟩
    · exact ⟨_, rfl⟩
    · exact parNeedMore_next s

/-- A `PAR.PULL` that answers `NEED_MORE` changes nothing but the consume offset, which moves over the zero pulses it
skipped (60_exceptions.md R908, 43_overflow_codec.md R734). -/
theorem parPullLoop_needMore {fuel : Nat} {s t : State} (h : parPullLoop fuel s = .next t)
    (ht : t.response.status = .needMore) :
    ∃ cur, t = { s with par := { s.par with cur := cur }, response := ⟨.needMore, []⟩ } := by
  have arm : ∀ {s : State}, parNeedMore s = .next t →
      ∃ cur, t = { s with par := { s.par with cur := cur }, response := ⟨.needMore, []⟩ } := by
    intro s h
    cases he : s.par.eos with
    | false => rw [parNeedMore_open he] at h; cases h; exact ⟨s.par.cur, rfl⟩
    | true => rw [parNeedMore_ended he] at h; split at h <;> cases h <;> cases ht
  induction fuel generalizing s with
  | zero => exact arm h
  | succ fuel ih =>
    unfold parPullLoop at h
    split at h
    · cases h; cases ht
    · obtain ⟨cur, rfl⟩ := ih h; exact ⟨cur, rfl⟩
    · cases h; cases ht
    · cases h; cases ht
    · exact arm h

/-- Every header `GEN.START` writes is 20 bytes (44_framing.md R840 to R842). -/
theorem streamPlan_hdr_length {params : Config.Params} {g : Gen} {plan : StreamPlan}
    (h : streamPlan params g = some plan) : plan.hdr.length = 20 := by
  have sig : ∀ m, (tapSignature m).length = 12 := by intro m; cases m <;> rfl
  unfold streamPlan at h
  split at h
  · cases h
  · split at h
    · unfold dmpPlan at h
      split at h
      · cases h
      · split at h
        · cases h; simp [dmpHeader, sigDmp]
        · cases h
    · simp only [tapPlan, Option.map_eq_some_iff] at h
      obtain ⟨_, -, rfl⟩ := h
      simp [tapHeader, sig]

/-- Every command ends with a next state: no command stops the block (60_exceptions.md R901, R902). -/
theorem exec_next (i : Instr) (s : State) : ∃ t, exec i s = .next t := by
  cases i with
  | nop => exact ⟨_, rfl⟩
  | cfgWr reg value => simp only [exec, execCfgWr]; split <;> exact ⟨_, rfl⟩
  | cfgRd reg => simp only [exec, execCfgRd]; split <;> exact ⟨_, rfl⟩
  | reset => exact ⟨_, rfl⟩
  | encSample sample =>
    simp only [exec, execEncSample]
    split
    · exact ⟨_, rfl⟩
    · split <;> simp only [encCountSample] <;> split <;> exact ⟨_, rfl⟩
  | encFlush => simp only [exec, execEncFlush]; split <;> exact ⟨_, rfl⟩
  | encReset => exact ⟨_, rfl⟩
  | decPulse pulse =>
    simp only [exec, execDecPulse]
    split
    · exact ⟨_, rfl⟩
    · split
      · exact ⟨_, rfl⟩
      · split
        · exact ⟨_, rfl⟩
        · split <;> exact ⟨_, rfl⟩
  | decPull count => simp only [exec, execDecPull]; split <;> exact ⟨_, rfl⟩
  | decReset => exact ⟨_, rfl⟩
  | parByte byte =>
    simp only [exec, execParByte]
    split
    · exact ⟨_, rfl⟩
    · split
      · exact ⟨_, rfl⟩
      · split
        · simp only [parCheckHeader]; split <;> exact ⟨_, rfl⟩
        · exact ⟨_, rfl⟩
  | parPull =>
    simp only [exec, execParPull]
    split
    · exact ⟨_, rfl⟩
    · exact ⟨_, rfl⟩
    · exact ⟨_, rfl⟩
    · exact parPullLoop_next _ s
  | parEos =>
    simp only [exec, execParEos]
    split
    · exact ⟨_, rfl⟩
    · split <;> exact ⟨_, rfl⟩
  | parReset => exact ⟨_, rfl⟩
  | genStart =>
    simp only [exec, execGenStart]
    split
    · exact ⟨_, rfl⟩
    · split
      · exact ⟨_, rfl⟩
      · split <;> exact ⟨_, rfl⟩
  | genPulse pulse =>
    simp only [exec, execGenPulse]
    split
    · exact ⟨_, rfl⟩
    · split
      · exact ⟨_, rfl⟩
      · split <;> exact ⟨_, rfl⟩
  | genFinish =>
    simp only [exec, execGenFinish]
    split
    · exact ⟨_, rfl⟩
    · split <;> exact ⟨_, rfl⟩
  | genReset => exact ⟨_, rfl⟩

end Sys2Proof.Laws
end

