-- ==== Sys2Proof/Tests/Slice0.lean ====
section
/-! SUPPORT. The model's own tests: the checks of WellFormed, one written-out word for every command (30_encoding.md
R301 to R303), one step of each command on the vectors of 95_test_vectors.md (named by their ids), and for every
statement with hypotheses a state and operands that meet them (`witness_<statement>`). -/

namespace Sys2Proof.Tests

open Sys2Proof.Machine Sys2Proof.Claims

/-! ### WellFormed and Decode -/

/-- K3, K4: an unassigned `OP`. -/
theorem test_opAssigned_refuses : opAssigned 0x030000000000#48 = false ∧ opAssigned 0xFF0000000000#48 = false := by
  decide

/-- K2, K15, K16, K17: an unused field that is not 0. -/
theorem test_unusedFieldsZero_refuses :
    unusedFieldsZero 0x000000000001#48 = false ∧ unusedFieldsZero 0x021100000005#48 = false
      ∧ unusedFieldsZero 0x300000000100#48 = false ∧ unusedFieldsZero 0x310100000000#48 = false := by decide

/-- The decoder refuses the same words, each by its reason's name. -/
theorem test_decode_refuses :
    decode 0x030000000000#48 = .error (.unknownOpcode 3#8) ∧ decode 0xFF0000000000#48 = .error (.unknownOpcode 255#8)
      ∧ decode 0x000000000001#48 = .error (.reservedField 0#8) ∧ decode 0x021100000005#48 = .error (.reservedField 2#8)
      ∧ decode 0x300000000100#48 = .error (.reservedField 0x30#8)
      ∧ decode 0x310100000000#48 = .error (.reservedField 0x31#8)
      ∧ decode 0x100100000000#48 = .error (.reservedField 0x10#8) := by decide

/-- The block's own words (K1, K5, K14, K12). -/
theorem test_decode_block :
    decode 0x000000000000#48 = .ok .nop ∧ decode 0x0111000000FA#48 = .ok (.cfgWr 0x11#8 250#32)
      ∧ decode 0x021700000000#48 = .ok (.cfgRd 0x17#8) ∧ decode 0x0F0000000000#48 = .ok .reset := by decide

/-- ENC's words (the sample -100, E12, E13). -/
theorem test_decode_enc :
    decode 0x1000FFFFFF9C#48 = .ok (.encSample (BitVec.ofInt 32 (-100))) ∧ decode 0x110000000000#48 = .ok .encFlush
      ∧ decode 0x1F0000000000#48 = .ok .encReset := by decide

/-- DEC's words (D16, D14). -/
theorem test_decode_dec :
    decode 0x200000000006#48 = .ok (.decPulse 6#32) ∧ decode 0x210000000004#48 = .ok (.decPull 4#32)
      ∧ decode 0x2F0000000000#48 = .ok .decReset := by decide

/-- PAR's words (scenario A). -/
theorem test_decode_par :
    decode 0x300000000064#48 = .ok (.parByte 100#8) ∧ decode 0x310000000000#48 = .ok .parPull
      ∧ decode 0x320000000000#48 = .ok .parEos ∧ decode 0x3F0000000000#48 = .ok .parReset := by decide

/-- GEN's words (`50332145 = 0x030001F1`, 44_framing.md R844). -/
theorem test_decode_gen :
    decode 0x400000000000#48 = .ok .genStart ∧ decode 0x4100030001F1#48 = .ok (.genPulse 50332145#32)
      ∧ decode 0x420000000000#48 = .ok .genFinish ∧ decode 0x4F0000000000#48 = .ok .genReset := by decide

/-- A table row's number is the command word, bit 0 the least significant bit of `DATA`. -/
theorem test_table_word : decodeTableWord 48 0x022100000000 = some (.cfgRd 0x21#8) := by decide

/-! ### Small states -/

/-- The power-on state with another ENC. -/
def withEnc (e : Enc) : State := { State.reset with enc := e }

/-- The power-on state with another DEC. -/
def withDec (d : Dec) : State := { State.reset with dec := d }

/-- The power-on state with another GEN. -/
def withGen (g : Gen) : State := { State.reset with gen := g }

/-- The power-on state with another PAR. -/
def withPar (p : Par) : State := { State.reset with par := p }

/-- The power-on state with command words in the port. -/
def withPort (words : List CommandWord) : State := { State.reset with port := words }

/-- A state with other capacities of the input buffer and the sink. -/
def withCaps (parBufCap sinkCap : Option Nat) (s : State) : State :=
  { s with params := { s.params with parBufCap := parBufCap, sinkCap := sinkCap } }

/-- Vector E1 after its fourth sample: armed, tracking a minimum at -100. -/
def encDown : Enc := { encReset with armed := true, dir := .down, ext := -100, level := 200, count := 4 }

/-- Vector E14's start: armed, the counter full. -/
def encFull : Enc := { encReset with armed := true, ext := 100, count := 0xFFFFFFFF }

/-- ENC after a flush. -/
def encEnded : Enc := { encReset with mode := .ended }

/-- ENC after E14. -/
def encFaulted : Enc := { encFull with mode := .faulted, fCntOvf := true }

/-- Vector D16 after its first command: a pulse of 6, none of it pulled. -/
def decBusy : Dec := { decReset with plen := 6, rem := 6 }

/-- Vector D5 after its pulse of 8, the triangle at volume 100. -/
def decTriangle : Dec := { decReset with ctrl := 1#32, volume := 100#32, plen := 8, rem := 8 }

/-- The sine shape on the last sample of a half-wave pulse. -/
def decSine : Dec := { decReset with ctrl := 0xA#32, plen := 3, rem := 1, curHalf := true }

/-- DEC after D12. -/
def decFaulted : Dec := { decReset with mode := .faulted, fZero := true }

/-- A TAP v1 header of a C64 PAL stream with length 0 (44_framing.md R840, its example). -/
def headerV1 : List Byte :=
  [0x43#8, 0x36#8, 0x34#8, 0x2D#8, 0x54#8, 0x41#8, 0x50#8, 0x45#8, 0x2D#8, 0x52#8, 0x41#8, 0x57#8,
    1#8, 0#8, 0#8, 0#8, 0#8, 0#8, 0#8, 0#8]

/-- The first 19 bytes of that header. -/
def header19 : List Byte := headerV1.take 19

/-- The first 19 bytes of a DMP header with 16 bits a sample (30_encoding.md R331). -/
def dmp19 : List Byte := sigDmp ++ [0#8, 0#8, 0#8, 16#8, 0#8, 0#8, 0#8]

/-- GEN right after `GEN.START` from reset. -/
def genWriting : Gen :=
  { genReset with
    mode := .writing, profile := .tapV1, hdr := headerV1, sink := headerV1, rate := 985248#32, version := 1#8 }

/-- GEN writing TAP v0. -/
def genV0 : Gen := { genWriting with profile := .tapV0, version := 0#8 }

/-- GEN after an unsupported `GEN.START`. -/
def genFaulted : Gen := { genReset with mode := .faulted, fUnsupported := true }

/-- PAR with 19 header bytes. -/
def parHeader (bytes : List Byte) : Par := { parReset with buf := bytes }

/-- PAR streaming TAP v1 with pulse bytes behind the header. -/
def parStream (pulses : List Byte) : Par :=
  { parReset with
    mode := .streamingPulses, buf := headerV1 ++ pulses, cur := 20, profile := .tapV1, version := 1#8
    rate := 985248#32 }

/-- PAR streaming DMP of 12 bits with pulse bytes behind its header. -/
def parStreamDmp (pulses : List Byte) : Par :=
  { parStream pulses with profile := .dmp 12 }

/-- PAR in Invalid. -/
def parInvalid : Par := { parReset with mode := .invalid, err := .headerTruncated, eos := true }

/-- PAR in Done. -/
def parDone : Par := { parStream [] with mode := .done, eos := true }

/-- The response of one command. -/
def answer (i : Instr) (s : State) : Response := (perform i s).response

/-! ### One step of each command -/

/-- K1. -/
theorem test_nop : perform .nop (withEnc encDown) = withEnc encDown := by decide

/-- K5, K8: the WARL fields of ENC_SENS and DEC_CTRL. -/
theorem test_cfgWr_legalises :
    (perform (.cfgWr 0x11#8 250#32) State.reset).enc.sens = 100#32
      ∧ (perform (.cfgWr 0x20#8 0xF#32) State.reset).dec.ctrl = 0xC#32 := by decide

/-- K13, and E10's write of `INVERT` while armed at the extremum -100. -/
theorem test_cfgWr_readOnly_and_invert :
    (answer (.cfgWr 0x14#8 1#32) State.reset).status = .badReg
      ∧ (perform (.cfgWr 0x10#8 1#32) (withEnc encDown)).enc
        = { encDown with ctrl := 1#32, ext := 100, dir := .up } := by decide

/-- K18, K19, K14. -/
theorem test_cfgRd :
    answer (.cfgRd 0x11#8) State.reset = ⟨.ok, [0x64#32]⟩ ∧ answer (.cfgRd 0x21#8) State.reset = ⟨.ok, [0x7FFFFFFF#32]⟩
      ∧ answer (.cfgRd 0x17#8) State.reset = ⟨.badReg, []⟩ := by decide

/-- K12, and ENC_STATUS after E14. -/
theorem test_reset_and_status :
    (perform .reset (withGen { genReset with cfg := 0x3F77#32 })).gen.cfg = 0x800#32
      ∧ answer (.cfgRd 0x14#8) (withEnc encFaulted) = ⟨.ok, [0x15#32]⟩ := by decide

/-- E1, its fifth sample: a rising turn is the boundary. -/
theorem test_encSample_boundary :
    answer (.encSample 100#32) (withEnc encDown) = ⟨.ok, [4#32]⟩
      ∧ (perform (.encSample 100#32) (withEnc encDown)).enc.level = 200 := by decide

/-- E14: a full counter. -/
theorem test_encSample_overflow :
    perform (.encSample 0x64#32) (withEnc encFull)
      = { withEnc encFaulted with response := ⟨.counterOverflow, []⟩ } := by decide

/-- E17 and the flush of a counted run. -/
theorem test_encFlush :
    answer .encFlush State.reset = ⟨.ok, []⟩ ∧ answer .encFlush (withEnc encDown) = ⟨.ok, [4#32]⟩
      ∧ (perform .encFlush (withEnc encDown)).enc.mode = .ended := by decide

/-- E13, the registers kept (40_control.md R406). -/
theorem test_encReset :
    (perform .encReset (withEnc { encFaulted with thresh := 7#32 })).enc = { encReset with thresh := 7#32 } := by decide

/-- D9's refusal and D12's fault. -/
theorem test_decPulse_stops :
    answer (.decPulse 3#32) (withDec decBusy) = ⟨.busy, []⟩
      ∧ perform (.decPulse 0#32) State.reset
        = { withDec decFaulted with response := ⟨.zeroPulse, []⟩ } := by decide

/-- D4: a half-wave pulse takes the next sign and reverses it. -/
theorem test_decPulse_half :
    (perform (.decPulse 3#32) (withDec { decReset with ctrl := 8#32, nextSign := .neg })).dec
      = { decReset with ctrl := 8#32, plen := 3, rem := 3, curHalf := true, curSign := .neg, nextSign := .pos } := by
  decide

/-- D16: the first pull of 4. -/
theorem test_decPull_square :
    answer (.decPull 4#32) (withDec decBusy) = ⟨.ok, [0x7FFFFFFF#32, 0x7FFFFFFF#32, 0x7FFFFFFF#32, 0x80000001#32]⟩ := by
  decide

/-- D5: a whole triangle pulse. -/
theorem test_decPull_triangle :
    (answer (.decPull 10#32) (withDec decTriangle)).words
      = [-50, 0, 50, 100, 50, 0, -50, -100].map (BitVec.ofInt 32) := by decide

/-- D14. -/
theorem test_decReset : (perform .decReset (withDec decFaulted)).dec = decReset := by decide

/-- H1 and H3: the 20th byte of a header. -/
theorem test_parByte_header :
    (perform (.parByte 0#8) (withPar (parHeader header19))).par = parStream []
      ∧ (perform (.parByte 0#8) (withPar (parHeader (header19.set 12 3#8)))).par.err = .badVersion := by decide

/-- H5, H9: the machine of the family and the bits of a sample. -/
theorem test_parByte_rejects :
    (perform (.parByte 0#8) (withPar (parHeader (header19.set 13 2#8)))).par.err = .badMachine
      ∧ (perform (.parByte 0#8) (withPar (parHeader (dmp19.set 15 33#8)))).par.err = .badBps := by decide

/-- Scenario B's pulse, and a zero pulse skipped before the next (43_overflow_codec.md R734). -/
theorem test_parPull_pulse :
    answer .parPull (withPar (parStream [0#8, 0xFF#8, 0xFF#8, 0xFF#8, 0#8, 0x10#8, 0#8, 0#8])) = ⟨.ok, [16777231#32]⟩
      ∧ answer .parPull (withPar (parStream [0#8, 0#8, 0#8, 0#8, 0x64#8])) = ⟨.ok, [800#32]⟩ := by decide

/-- V8 through a pull: the zero pulse is consumed (43_overflow_codec.md R734) and the pull needs more; after the end of
input the stream ends behind it. -/
theorem test_parPull_skip_needs_more :
    perform .parPull (withPar (parStream [0#8, 0#8, 0#8, 0#8]))
        = { withPar { parStream [0#8, 0#8, 0#8, 0#8] with cur := 24 } with response := ⟨.needMore, []⟩ }
      ∧ (perform .parPull (withPar { parStream [0#8, 0#8, 0#8, 0#8] with eos := true })).par
        = { parStream [0#8, 0#8, 0#8, 0#8] with eos := true, cur := 24, mode := .done } := by decide

/-- V18, and a prefix at the end of the input (60_exceptions.md R917). -/
theorem test_parPull_faults :
    answer .parPull (withPar (parStreamDmp [0xFF#8, 0x1F#8])) = ⟨.invalidField, []⟩
      ∧ (perform .parPull (withPar { parStream [0#8] with eos := true })).par.trailing = true := by decide

/-- `PAR.EOS` before the 20th byte: PAR_STATUS reads `0x162` (44_framing.md R826). -/
theorem test_parEos :
    answer .parEos (withPar (parHeader (header19.take 5))) = ⟨.invalidHeader, []⟩
      ∧ parStatusWord (perform .parEos (withPar (parHeader (header19.take 5)))).par = 0x162#32 := by decide

theorem test_parReset : (perform .parReset (withPar parInvalid)).par = parReset := by decide

/-- 44_framing.md R840's example, and `BPS` 33. -/
theorem test_genStart :
    (perform .genStart State.reset).gen = genWriting
      ∧ answer .genStart (withGen { genReset with cfg := 0x2101#32 }) = ⟨.unsupportedConfig, []⟩ := by decide

/-- 44_framing.md R844's example: `3 * 0xFFFFFF + 500`. -/
theorem test_genPulse :
    (perform (.genPulse 50332145#32) (withGen genWriting)).gen.sink.drop 20
      = [0#8, 0xFF#8, 0xFF#8, 0xFF#8, 0#8, 0xFF#8, 0xFF#8, 0xFF#8, 0#8, 0xFF#8, 0xFF#8, 0xFF#8, 0#8, 0xF4#8, 1#8, 0#8] := by
  decide

/-- O14: a TAP v0 pulse of 3000 is written as one zero, with loss. -/
theorem test_genPulse_lossy :
    (perform (.genPulse 3000#32) (withGen genV0)).gen = { genV0 with sink := headerV1 ++ [0#8], lossy := true } := by
  decide

/-- 44_framing.md R846's example: one byte of pulses. -/
theorem test_genFinish :
    ((perform .genFinish (withGen { genWriting with sink := headerV1 ++ [0x64#8] })).gen.sink.drop 16)
      = [1#8, 0#8, 0#8, 0#8, 0x64#8] := by decide

theorem test_genReset :
    (perform .genReset (withGen { genFaulted with cfg := 1#32 })).gen = { genReset with cfg := 1#32 } := by decide

/-- A word in the port is the next command, and an illegal one is refused. -/
theorem test_step :
    step (withPort [0x0111000000FA#48]) = exec (.cfgWr 0x11#8 250#32) State.reset
      ∧ step (State.reset.withFetchWord 48 0x030000000000)
        = .next { State.reset with response := ⟨.illegalCmd, []⟩ } := ⟨rfl, rfl⟩

/-- DMP of 12 bits (O20, V20). -/
theorem test_overflow_dmp :
    (ovfEncode Config.reference (.dmp 12) 5000).1 = [0xFF#8, 0x0F#8, 0x89#8, 0x03#8]
      ∧ ovfDecode Config.reference (.dmp 12) [0xFF#8, 0x0F#8, 0x89#8, 0x03#8] 0 false = .pulse 5000 4 := by decide

/-- TAP v0 zero runs (V12, V13, V14). -/
theorem test_overflow_v0 :
    ovfDecode Config.reference .tapV0 [0#8] 0 false = .needMore
      ∧ ovfDecode Config.reference .tapV0 [0#8] 0 true = .pulse 25000 1
      ∧ ovfDecode Config.reference .tapV0 [0#8, 0#8, 0#8, 0x64#8] 0 false = .pulse 75000 3 := by decide

/-! ### Witnesses: states and operands that meet a statement's hypotheses -/

/-- An unassigned `OP`, a stray `DATA` bit and a stray `AUX` bit. -/
theorem witness_IllegalWordsAreRefused :
    ((withPort [0xFF0000000000#48]).port = 0xFF0000000000#48 :: [] ∧ commandWellFormed 0xFF0000000000#48 = false)
      ∧ commandWellFormed 0x300000000100#48 = false ∧ commandWellFormed 0x310100000000#48 = false := by decide

theorem witness_StepPerformsTheDecodedCommand :
    (withPort [0x110000000000#48, 0#48]).port = 0x110000000000#48 :: [0#48] ∧ decode 0x110000000000#48 = .ok .encFlush
      ∧ (withPort []).port = [] := by decide

/-- One mode the table accepts and one it leaves out. -/
theorem witness_ModeGatesDecideBadState :
    exec .encFlush State.reset = .next (perform .encFlush State.reset) ∧ gateOpen .encFlush State.reset = true
      ∧ exec .encFlush (withEnc encEnded) = .next (perform .encFlush (withEnc encEnded))
      ∧ gateOpen .encFlush (withEnc encEnded) = false := ⟨rfl, rfl, rfl, rfl⟩

/-- `BAD_REG`, `BAD_STATE` and `BUSY`. -/
theorem witness_RefusalsWriteNoState :
    (exec (.cfgRd 0x17#8) State.reset = .next (perform (.cfgRd 0x17#8) State.reset)
        ∧ (perform (.cfgRd 0x17#8) State.reset).response.status = .badReg)
      ∧ (exec .parPull (withPar parInvalid) = .next (perform .parPull (withPar parInvalid))
        ∧ (perform .parPull (withPar parInvalid)).response.status = .badState)
      ∧ (exec (.decPulse 1#32) (withDec decBusy) = .next (perform (.decPulse 1#32) (withDec decBusy))
        ∧ (perform (.decPulse 1#32) (withDec decBusy)).response.status = .busy) :=
  ⟨⟨rfl, rfl⟩, ⟨rfl, rfl⟩, ⟨rfl, rfl⟩⟩

/-- Each clause, the pull at exactly the samples left. -/
theorem witness_BusyOnlyWhileFull :
    exec (.decPulse 1#32) (withDec decBusy) = .next (perform (.decPulse 1#32) (withDec decBusy))
      ∧ ((withDec decBusy).dec.mode = .running ∧ (withDec decBusy).dec.rem ≤ (6#32).toNat
        ∧ exec (.decPull 6#32) (withDec decBusy) = .next (perform (.decPull 6#32) (withDec decBusy)))
      ∧ (profileOk (withPar (parStream [1#8])).par.profile
        ∧ exec .parPull (withPar (parStream [1#8])) = .next (perform .parPull (withPar (parStream [1#8])))
        ∧ (perform .parPull (withPar (parStream [1#8]))).response.status = .ok) :=
  ⟨rfl, ⟨rfl, by decide, rfl⟩, ⟨trivial, rfl, rfl⟩⟩

/-- A command that touches each unit and none other. -/
theorem witness_CommandsTouchOnlyTheirUnit :
    exec (.cfgWr 0x20#8 1#32) State.reset = .next (perform (.cfgWr 0x20#8 1#32) State.reset)
      ∧ touchesEnc (.cfgWr 0x20#8 1#32) = false ∧ touchesGen (.cfgWr 0x20#8 1#32) = false
      ∧ touchesPar (.cfgWr 0x20#8 1#32) = false ∧ touchesDec .encFlush = false := ⟨rfl, rfl, rfl, rfl, rfl⟩

/-- A faulted state of every unit, and a fault of every unit. -/
theorem witness_FaultsAreLeftOnlyByReset :
    (exec .nop (withEnc encFaulted) = .next (perform .nop (withEnc encFaulted))
        ∧ (withEnc encFaulted).enc.mode ≠ .running)
      ∧ (withEnc encEnded).enc.mode ≠ .running ∧ (withDec decFaulted).dec.mode = .faulted
      ∧ (withGen genFaulted).gen.mode = .faulted ∧ (withPar parInvalid).par.mode = .invalid
      ∧ (perform (.encSample 1#32) (withEnc encFull)).response.status ∈ faultStatuses
      ∧ (perform (.decPulse 0#32) State.reset).response.status ∈ faultStatuses
      ∧ (perform (.genPulse 0#32) (withGen genWriting)).response.status ∈ faultStatuses
      ∧ (perform .parEos State.reset).response.status ∈ faultStatuses :=
  ⟨⟨rfl, by decide⟩, by decide, rfl, rfl, rfl, by decide, by decide, by decide, by decide⟩

/-- The word of `NOP`, and words with the lowest bit of `DATA` and the highest of `AUX`. -/
theorem witness_NopChangesNothing :
    ((withPort [0x008000000000#48]).port = 0x008000000000#48 :: [] ∧ opField 0x008000000000#48 = 0#8)
      ∧ opField 0#48 = 0#8 ∧ opField 1#48 = 0#8 := by decide

/-- The numbers next to the map's ends, and the first read-only register. -/
theorem witness_BadRegistersAreRefused :
    (∀ r ∈ [0#8, 0x0F#8, 0x17#8, 0x25#8, 0x35#8, 0x4A#8, 0xFF#8], r ∉ mappedNumbers)
      ∧ ∀ r ∈ [0x14#8, 0x22#8, 0x32#8, 0x40#8, 0x49#8, 0x17#8], r ∉ writableNumbers := by decide

theorem witness_EncStatusFields :
    exec .nop (withEnc encFaulted) = .next (perform .nop (withEnc encFaulted))
      ∧ Instr.nop ∉ [Instr.encReset, .reset] ∧ (withEnc encFaulted).enc.fCntOvf = true := ⟨rfl, by decide, rfl⟩

theorem witness_DecStatusFields :
    exec .nop (withDec decFaulted) = .next (perform .nop (withDec decFaulted))
      ∧ Instr.nop ∉ [Instr.decReset, .reset] ∧ (withDec decFaulted).dec.fZero = true := ⟨rfl, by decide, rfl⟩

/-- The fault bits, and `LOSSY` across a pulse. -/
theorem witness_GenStatusFields :
    (exec .nop (withGen genFaulted) = .next (perform .nop (withGen genFaulted))
        ∧ Instr.nop ∉ [Instr.genReset, .reset] ∧ (withGen genFaulted).gen.fUnsupported = true)
      ∧ (withGen { genFaulted with fZero := true, fLength := true }).gen.fZero = true
      ∧ exec (.genPulse 8#32) (withGen { genV0 with lossy := true })
        = .next (perform (.genPulse 8#32) (withGen { genV0 with lossy := true })) :=
  ⟨⟨rfl, by decide, rfl⟩, rfl, rfl⟩

/-- ENC as vector E1 leaves it after four samples is a state the rules allow. -/
theorem encOk_encDown : EncOk Config.reference encDown :=
  ⟨by decide, by decide, by decide, by decide, by decide, by decide, by decide, by decide⟩

theorem decOk_decTriangle : DecOk Config.reference decTriangle := ⟨by decide, by decide, by decide, by decide, by
      decide⟩

theorem genOk_genWriting : GenOk Config.reference genWriting :=
  ⟨by decide, by decide, trivial, by decide, by decide, by decide, by decide, by decide, by simp [Config.reference],
    by decide, by decide⟩

theorem parOk_parStream : ParOk Config.reference (parStream [0x64#8]) :=
  ⟨by decide, trivial, by decide, by decide, by decide, by decide, by decide, by decide, by simp [Config.reference],
    by decide⟩

theorem parOk_parHeader : ParOk Config.reference (parHeader header19) :=
  ⟨by decide, trivial, by decide, by decide, by decide, by decide, by decide, by decide, by simp [Config.reference],
    by decide⟩

theorem witness_ParStatusFields :
    ParOk (withPar (parHeader header19)).params (withPar (parHeader header19)).par
      ∧ (withPar (parHeader header19)).par.cur = 0 := ⟨parOk_parHeader, rfl⟩

/-- A counter one short of full, and a full one at an emitting boundary. -/
theorem witness_EncSampleFollowsTheDetector :
    SpecConstants State.reset.params
      ∧ ((withEnc { encFull with count := 0xFFFFFFFE }).enc.mode = .running
        ∧ (withEnc { encFull with count := 0xFFFFFFFE }).enc.count ≠ 2 ^ 32 - 1)
      ∧ ((withEnc { encDown with count := 0xFFFFFFFF }).enc.mode = .running
        ∧ sampleEmits { encDown with count := 0xFFFFFFFF } (sampleInput { encDown with count := 0xFFFFFFFF } 100#32)
          = true)
      ∧ exec (.encSample 100#32) (withEnc encFull) = .next (perform (.encSample 100#32) (withEnc encFull))
      ∧ exec .nop (withEnc encDown) = .next (perform .nop (withEnc encDown))
      ∧ Instr.nop ∉ [Instr.encReset, .reset] ∧ (withEnc encDown).enc.armed = true :=
  ⟨by decide, by decide, by decide, rfl, rfl, by decide, rfl⟩

theorem witness_EncCounterOverflowFaults :
    SpecConstants (withEnc encFull).params ∧ (withEnc encFull).enc.mode = .running
      ∧ (withEnc encFull).enc.count = 2 ^ 32 - 1
      ∧ sampleEmits (withEnc encFull).enc (sampleInput (withEnc encFull).enc 0x64#32) = false := by decide

theorem witness_EncFlushEndsTheStream :
    SpecConstants (withEnc encDown).params ∧ (withEnc encDown).enc.mode = .running
      ∧ (withEnc encEnded).enc.mode ≠ .running
      ∧ (withEnc encFaulted).enc.mode ≠ .running := by decide

/-- A pulse of exactly ENC_MINDUR. -/
theorem witness_EncPulsesAreDebounced :
    SpecConstants (withEnc encDown).params ∧ EncOk (withEnc encDown).params (withEnc encDown).enc
      ∧ exec (.encSample 100#32) (withEnc encDown) = .next (perform (.encSample 100#32) (withEnc encDown))
      ∧ answer (.encSample 100#32) (withEnc { encDown with minDur := 4#32 }) = ⟨.ok, [4#32]⟩ :=
  ⟨by decide, encOk_encDown, rfl, by decide⟩

/-- A stream of one sample with other commands around it. -/
theorem witness_PulsesSumToTheSamples :
    SpecConstants State.reset.params
      ∧ (∀ c ∈ [Instr.cfgWr 0x10#8 2#32, .encSample 5#32, .nop], endsEncStream c = false)
      ∧ (∀ r ∈ (performAll (.encReset :: ([Instr.cfgWr 0x10#8 2#32, .encSample 5#32, .nop] ++ [.encFlush]))
          State.reset).1, r.status ≠ .counterOverflow)
      ∧ (performAll (.encReset :: ([Instr.cfgWr 0x10#8 2#32, .encSample 5#32, .nop] ++ [.encFlush]))
          State.reset).2.enc.armed = true := by decide

/-- Samples at exactly the threshold, of both signs (E2). -/
theorem witness_SilentStreamsEmitNothing :
    SpecConstants (withEnc { encReset with thresh := 50#32 }).params
      ∧ ∀ x ∈ [50#32, BitVec.ofInt 32 (-50)],
        x.toInt.natAbs ≤ (withEnc { encReset with thresh := 50#32 }).enc.thresh.toNat := by
  refine ⟨by decide, ?_⟩
  intro x hx
  rcases List.mem_pair.mp hx with rfl | rfl <;> decide

/-- The smallest wave, and the largest period and amplitude. -/
theorem witness_ConstantPeriodGivesConstantPulses :
    SpecConstants State.reset.params ∧ State.reset.enc.sens = 100#32 ∧ State.reset.enc.minDur = 0#32
      ∧ State.reset.enc.ctrl = 0#32
      ∧ ∀ w ∈ [(1, 2), (2 ^ 31 - 1, 2 ^ 32 - 1)], 2 ≤ w.2 ∧ w.2 ≤ 2 ^ 32 - 1 ∧ 0 < w.1 ∧ w.1 ≤ 2 ^ 31 - 1
        ∧ State.reset.enc.thresh.toNat < w.1 := by decide

/-- Each clause: faulted, one sample left, a zero pulse, the largest pulse. -/
theorem witness_DecPulseStartsThePulse :
    SpecConstants State.reset.params ∧ (withDec decFaulted).dec.mode ≠ .running
      ∧ ((withDec { decBusy with rem := 1 }).dec.mode = .running ∧ 0 < (withDec { decBusy with rem := 1 }).dec.rem)
      ∧ (State.reset.dec.mode = .running ∧ State.reset.dec.rem = 0 ∧ 0xFFFFFFFF#32 ≠ 0#32) := by decide

theorem witness_DecPullSendsTheNextSamples :
    SpecConstants (withDec decBusy).params ∧ (withDec decFaulted).dec.mode ≠ .running
      ∧ (withDec decBusy).dec.mode = .running := by decide

/-- The first sample of a triangle pulse, and the last of a square one. -/
theorem witness_PulledSampleHasTheRulesValue :
    SpecConstants (withDec decTriangle).params
      ∧ ((withDec decTriangle).dec.mode = .running ∧ 0 < (withDec decTriangle).dec.rem
        ∧ (withDec decTriangle).dec.rem ≤ (withDec decTriangle).dec.plen
        ∧ (withDec decTriangle).dec.ctrl.toNat % 4 = 1)
      ∧ ((withDec { decBusy with rem := 1 }).dec.mode = .running ∧ 0 < (withDec { decBusy with rem := 1 }).dec.rem
        ∧ (withDec { decBusy with rem := 1 }).dec.rem ≤ (withDec { decBusy with rem := 1 }).dec.plen
        ∧ (withDec { decBusy with rem := 1 }).dec.ctrl.toNat % 4 = 0) := by decide

theorem witness_SineKeepsItsContract :
    SpecConstants (withDec decSine).params ∧ (withDec decSine).dec.mode = .running ∧ 0 < (withDec decSine).dec.rem
      ∧ (withDec decSine).dec.rem ≤ (withDec decSine).dec.plen ∧ (withDec decSine).dec.ctrl.toNat % 4 = 2 := by decide

theorem witness_SamplesStayWithinVolume :
    SpecConstants (withDec decTriangle).params ∧ DecOk (withDec decTriangle).params (withDec decTriangle).dec
      ∧ exec (.decPull 8#32) (withDec decTriangle) = .next (perform (.decPull 8#32) (withDec decTriangle))
      ∧ (perform (.decPull 8#32) (withDec decTriangle)).response.words ≠ [] :=
        ⟨by decide, decOk_decTriangle, rfl, by decide⟩

/-- A pulse cut into pulls that ask for exactly its samples. -/
theorem witness_PullsYieldThePulse :
    (SpecConstants State.reset.params ∧ State.reset.dec.mode = .running ∧ State.reset.dec.rem = 0 ∧ 6#32 ≠ 0#32
        ∧ (6#32).toNat ≤ ([4#32, 0#32, 2#32].map BitVec.toNat).sum)
      ∧ exec (.decPull 9#32) (withDec decBusy) = .next (perform (.decPull 9#32) (withDec decBusy)) :=
  ⟨by decide, rfl⟩

/-- The square wave's state at the smallest volume. -/
def squareState (half : Bool) : State :=
  { State.reset with
    dec := { decReset with ctrl := if half then 8#32 else 0#32, volume := 1#32 }
    enc := { encReset with ctrl := if half then 2#32 else 0#32 } }

/-- The shortest pulse of each mode at the smallest volume. -/
theorem witness_SquareWaveRoundTrip :
    ∀ half : Bool, SpecConstants (squareState half).params ∧ (squareState half).dec.ctrl = (if half then 8#32 else 0#32)
      ∧ (squareState half).enc.ctrl = (if half then 2#32 else 0#32)
      ∧ 0 < (squareState half).dec.volume.toNat % 2 ^ 31
      ∧ (squareState half).enc.thresh.toNat < (squareState half).dec.volume.toNat % 2 ^ 31
      ∧ (squareState half).enc.sens = 100#32 ∧ (squareState half).enc.minDur = 0#32
      ∧ (if half then 1 else 2) ≤ (if half then 1#32 else 2#32 : Word).toNat := by decide

/-- The narrowest and the widest profile, the smallest and the largest pulse. -/
theorem witness_OverflowRoundTrip :
    SpecConstants Config.reference ∧ 1 ≤ Config.reference.v0ZeroValue ∧ losslessProfile .tapV1 ∧ losslessProfile .tapV2
      ∧ losslessProfile (.dmp 1) ∧ losslessProfile (.dmp 32) ∧ ∀ p ∈ [1, 2 ^ 32 - 1], 1 ≤ p ∧ p ≤ 2 ^ 32 - 1 :=
  ⟨by decide, by decide, trivial, trivial, ⟨by decide, by decide⟩, ⟨by decide, by decide⟩, by decide⟩

/-- A run of one zero, the longest run that fits and the next (V16), and runs of value 0. -/
theorem witness_TapV0ZeroRunIsOnePulse :
    SpecConstants Config.reference ∧ 1#8 ≠ 0#8 ∧ 171798 * Config.reference.v0ZeroValue ≤ 2 ^ 32 - 1
      ∧ 2 ^ 32 - 1 < 171799 * Config.reference.v0ZeroValue
      ∧ SpecConstants { Config.reference with v0ZeroValue := 0 } := by decide

/-- The empty prefix and the longest proper one. -/
theorem witness_PrefixesNeedMoreBytes :
    SpecConstants Config.reference
      ∧ (∀ n ∈ [0, 7], losslessProfile .tapV1 ∧ 1 ≤ 16777215 ∧ 16777215 ≤ 2 ^ 32 - 1
        ∧ n < (ovfEncode Config.reference .tapV1 16777215).1.length)
      ∧ Config.reference.v0ZeroValue = 25000
      ∧ ∀ n ∈ [0, 1], 1 ≤ 50000 ∧ 50000 ≤ 2 ^ 32 - 1 ∧ n < (ovfEncode Config.reference .tapV0 50000).1.length := by
  refine ⟨by decide, ?_, rfl, by decide⟩
  intro n hn
  exact ⟨trivial, by decide, by decide,
    (by decide : ∀ n ∈ [0, 7], n < (ovfEncode Config.reference .tapV1 16777215).1.length) n hn⟩

/-- The smallest pulse written as a zero, and an exact one behind a zero. -/
theorem witness_TapV0LossIsFlagged :
    (SpecConstants (withGen genV0).params ∧ (withGen genV0).params.v0ZeroValue = 25000
      ∧ (withGen genV0).gen.mode = .writing
        ∧ (withGen genV0).gen.profile = .tapV0 ∧ (withGen genV0).gen.lossy = false
        ∧ exec (.genPulse 2048#32) (withGen genV0) = .next (perform (.genPulse 2048#32) (withGen genV0))
        ∧ (perform (.genPulse 2048#32) (withGen genV0)).response.status = .ok)
      ∧ (perform (.genPulse 25000#32) (withGen { genV0 with sink := headerV1 ++ [0#8] })).response.status = .ok
      ∧ (perform (.genPulse 25000#32) (withGen { genV0 with sink := headerV1 ++ [0#8] })).gen.lossy = true :=
  ⟨⟨by decide, rfl, rfl, rfl, rfl, rfl, by decide⟩, by decide, by decide⟩

/-- The first byte, the 19th, and one behind the header with one byte of room. -/
theorem witness_ParByteAppends :
    (SpecConstants State.reset.params ∧ gateOpen (.parByte 0#8) State.reset = true
      ∧ State.reset.params.parBufCap ≠ some (0 - 0)
        ∧ State.reset.par.buf.length ≠ 19)
      ∧ (gateOpen (.parByte 0#8) (withPar (parHeader (header19.take 18))) = true
        ∧ (withPar (parHeader (header19.take 18))).par.buf.length ≠ 19)
      ∧ let s := withCaps (some 1) none (withPar (parStream []))
        SpecConstants s.params ∧ gateOpen (.parByte 0#8) s = true
          ∧ s.params.parBufCap ≠ some (s.par.buf.length - s.par.cur)
          ∧ s.par.mode = .streamingPulses := by decide

/-- A header that fails no check, and one that fails one. -/
theorem witness_HeadersAreJudgedByTheFirstFailingCheck :
    (let s := withPar (parHeader header19);
      SpecConstants s.params ∧ s.par.mode = .awaitingHeader ∧ s.par.eos = false ∧ s.par.buf.length = 19
        ∧ s.params.parBufCap ≠ some (s.par.buf.length - s.par.cur) ∧ headerVerdict (s.par.buf ++ [0#8]) = none)
      ∧ headerVerdict ((header19.set 12 3#8) ++ [0#8]) = some .badVersion := by decide

/-- A header of each TAP family and a DMP header, each byte at its largest legal value. -/
theorem witness_ValidHeadersAreRecorded :
    (let s := withPar (parHeader (sigC64 ++ [2#8, 1#8, 1#8, 9#8, 0#8, 0#8, 0#8]));
      SpecConstants s.params ∧ s.par.mode = .awaitingHeader ∧ s.par.eos = false
        ∧ s.params.parBufCap ≠ some (s.par.buf.length - s.par.cur)
        ∧ s.par.buf ++ [255#8] = sigC64 ++ [2#8, 1#8, 1#8, 9#8, 0#8, 0#8, 0#8, 255#8] ∧ (2#8).toNat ≤ 2
        ∧ (1#8).toNat ≤ 1)
      ∧ (withPar (parHeader (sigC16 ++ [2#8, 2#8, 1#8, 9#8, 0#8, 0#8, 0#8]))).par.buf ++ [255#8]
        = sigC16 ++ [2#8, 2#8, 1#8, 9#8, 0#8, 0#8, 0#8, 255#8]
      ∧ (withPar (parHeader (sigDmp ++ [0#8, 2#8, 9#8, 32#8, 0#8, 0#8, 0#8]))).par.buf ++ [255#8]
        = sigDmp ++ [0#8, 2#8, 9#8, 32#8, 0#8, 0#8, 0#8, 255#8] ∧ (32#8).toNat ≤ 32 := by decide

theorem witness_AcceptedHeadersAreCounted : (headerV1.set 11 0x58#8).take 12 ∉ [sigC64, sigC16, sigDmp] := by decide

/-- Every mode, and in StreamingPulses every outcome of `OvfDecode`. -/
theorem witness_ParPullFollowsTheDecode :
    SpecConstants State.reset.params ∧ profileOk .tapV1 ∧ profileOk (.dmp 12) ∧ (withPar parInvalid).par.mode = .invalid
      ∧ (withPar parDone).par.mode = .done ∧ State.reset.par.mode = .awaitingHeader
      ∧ (withPar (parStream [])).par.mode = .streamingPulses
      ∧ ovfDecode Config.reference .tapV1 (parStream [0x64#8]).buf 20 false = .pulse 800 21
      ∧ ovfDecode Config.reference .tapV1 (parStream [0#8, 0#8, 0#8, 0#8]).buf 20 false = .skip 24
      ∧ ovfDecode Config.reference (.dmp 12) (parStreamDmp [0xFF#8, 0x1F#8]).buf 20 false = .invalid .badField
      ∧ SpecConstants { Config.reference with v0ZeroValue := 4294967296 }
      ∧ ovfDecode { Config.reference with v0ZeroValue := 4294967296 } .tapV0 (parStream [0#8]).buf 20 false
        = .invalid .pulseOverflow
      ∧ ovfDecode Config.reference .tapV1 (parStream []).buf 20 true = .needMore
      ∧ ovfDecode Config.reference .tapV1 (parStream [0#8, 0#8, 0#8]).buf 20 true = .needMore :=
  ⟨by decide, trivial, by simp [profileOk], rfl, rfl, rfl, rfl, by decide, by decide, by decide, by decide, by decide,
    by decide, by decide⟩

/-- The clauses at bytes: the narrow byte 0x80, the wide fields next to the sentinel, a DMP field just above its
sentinel behind the most sentinels that fit, and the fewest that do not; and a pull that needs more. -/
theorem witness_ParPullFollowsTheDecode_bytes :
    SpecConstants Config.reference ∧ 0x80#8 ≠ 0#8 ∧ 0xFFFFFE < 0xFFFFFF ∧ 2 ^ 32 - 1 < 257 * 0xFFFFFF
      ∧ (1 ≤ 12 ∧ 12 ≤ 32 ∧ 2 ^ 12 - 1 < 0x1000 ∧ 0x1000 < 2 ^ (8 * ((12 + 7) / 8))
        ∧ 1048832 * (2 ^ 12 - 1) ≤ 2 ^ 32 - 1 ∧ 2 ^ 32 - 1 < 1048833 * (2 ^ 12 - 1))
      ∧ exec .parPull (withPar (parStream [0#8])) = .next (perform .parPull (withPar (parStream [0#8])))
      ∧ (perform .parPull (withPar (parStream [0#8]))).response.status = .needMore :=
  ⟨by decide, by decide, by decide, by decide, by decide, rfl, by decide⟩

/-- Each clause, the last on a zero run of one byte. -/
theorem witness_ParEosEndsTheInput :
    (withPar { parStream [] with eos := true }).par.eos = true ∧ (withPar parInvalid).par.mode = .invalid
      ∧ (withPar parDone).par.mode = .done
      ∧ ((withPar (parHeader header19)).par.eos = false ∧ (withPar (parHeader header19)).par.mode = .awaitingHeader)
      ∧ let s := withPar { parStream [0#8] with profile := .tapV0 }
        s.par.eos = false ∧ s.par.mode = .streamingPulses ∧ SpecConstants s.params ∧ s.par.profile = .tapV0
          ∧ s.par.buf.drop s.par.cur = List.replicate 1 0#8 ∧ 1 ≤ 1 * s.params.v0ZeroValue
          ∧ 1 * s.params.v0ZeroValue ≤ 2 ^ 32 - 1 := by decide

theorem witness_ParserModesFollowTheTable :
    exec .parEos (withPar (parHeader header19)) = .next (perform .parEos (withPar (parHeader header19)))
      ∧ (perform .parEos (withPar (parHeader header19))).par.mode = .invalid := ⟨rfl, rfl⟩

theorem witness_InputBufferIsAppendOnly :
    exec (.parByte 7#8) (withPar (parStream [1#8])) = .next (perform (.parByte 7#8) (withPar (parStream [1#8])))
      ∧ Instr.parByte 7#8 ≠ .parReset ∧ Instr.parByte 7#8 ≠ .reset ∧ 20 < (withPar (parStream [1#8])).par.buf.length :=
  ⟨rfl, by decide, by decide, by decide⟩

/-- The reset configuration from Idle in a sink of exactly 20 bytes, and DMP at 1 and 32 bits from Done. -/
theorem witness_GenStartWritesTheHeader :
    (SpecConstants (withCaps none (some 20) State.reset).params ∧ (withCaps none (some 20) State.reset).gen.mode = .idle
        ∧ unsupported (withCaps none (some 20) State.reset).gen.cfg = false
        ∧ (∀ c, (withCaps none (some 20) State.reset).params.sinkCap = some c → 20 ≤ c)
        ∧ (withCaps none (some 20) State.reset).gen.cfg.getLsbD 0 = false)
      ∧ (withGen { genWriting with mode := .done, cfg := 0x101#32 }).gen.mode = .done
      ∧ unsupported 0x101#32 = false ∧ unsupported 0x2001#32 = false ∧ (0x101#32).getLsbD 0 = true := by
  refine ⟨⟨by decide, rfl, rfl, ?_, rfl⟩, by decide⟩
  intro c h
  cases h
  exact Nat.le_refl 20

/-- Each cause: machine 3, a half-wave TAP v0, a half-wave DMP, 0 and 33 bits. -/
theorem witness_UnsupportedConfigurationsFault :
    ((withGen { genReset with cfg := 0x830#32 }).gen.mode = .idle
        ∧ unsupported (withGen { genReset with cfg := 0x830#32 }).gen.cfg = true)
      ∧ (withGen { genWriting with mode := .done }).gen.mode = .done ∧ unsupported 0x806#32 = true
      ∧ unsupported 0x803#32 = true ∧ unsupported 0x001#32 = true ∧ unsupported 0x2101#32 = true := by decide

/-- A pulse of one byte in a sink with room for exactly one. -/
theorem witness_GenPulseAppendsTheEncoding :
    let s := withCaps none (some 21) (withGen genWriting)
    SpecConstants s.params ∧ s.gen.mode = .writing ∧ 8#32 ≠ 0#32 ∧ 1 ≤ s.params.v0ZeroValue
      ∧ (isTap s.gen.profile = true →
        s.gen.sink.length + (pulseBytes s.params.v0ZeroValue s.gen.profile (8#32).toNat).1.length ≤ 2 ^ 32 - 1 + 20)
      ∧ ∀ c, s.params.sinkCap = some c →
        s.gen.sink.length + (pulseBytes s.params.v0ZeroValue s.gen.profile (8#32).toNat).1.length ≤ c := by
  refine ⟨by decide, rfl, by decide, by decide, by decide, ?_⟩
  intro c h
  cases h
  decide

/-- A TAP section one byte too long. -/
theorem witness_LengthOverflowWritesNothing_section :
    ∃ s : State, SpecConstants s.params ∧ s.gen.mode = .writing ∧ 8#32 ≠ 0#32 ∧ isTap s.gen.profile = true
      ∧ 2 ^ 32 - 1 + 20
        < s.gen.sink.length + (pulseBytes s.params.v0ZeroValue s.gen.profile (8#32).toNat).1.length := by
  obtain ⟨sink, hsink⟩ : ∃ sink : List Byte, sink.length = 2 ^ 32 - 1 + 20 :=
    ⟨List.replicate _ 0#8, List.length_replicate⟩
  refine ⟨withGen { genWriting with sink := sink }, (by decide : SpecConstants Config.reference), rfl, by
    decide, rfl, ?_⟩
  show _ < sink.length + (pulseBytes 25000 .tapV1 (8#32).toNat).1.length
  rw [hsink, show (pulseBytes 25000 .tapV1 (8#32).toNat).1.length = 1 by decide]
  exact Nat.lt_succ_self _

/-- A sink one byte too short, for a pulse and for a header. -/
theorem witness_LengthOverflowWritesNothing_capacity :
    (SpecConstants (withCaps none (some 20) (withGen genWriting)).params
        ∧ (withCaps none (some 20) (withGen genWriting)).gen.mode = .writing ∧ 8#32 ≠ 0#32
        ∧ ∃ c, (withCaps none (some 20) (withGen genWriting)).params.sinkCap = some c
          ∧ c < genWriting.sink.length + (pulseBytes 25000 genWriting.profile (8#32).toNat).1.length)
      ∧ (withCaps none (some 19) State.reset).gen.mode = .idle
      ∧ unsupported (withCaps none (some 19) State.reset).gen.cfg = false
      ∧ ∃ c, (withCaps none (some 19) State.reset).params.sinkCap = some c ∧ c < 20 :=
  ⟨⟨by decide, rfl, by decide, 20, rfl, by decide⟩, rfl, rfl, 19, rfl, by decide⟩

theorem witness_GenFinishWritesTheLength :
    SpecConstants State.reset.params ∧ State.reset.gen.mode ≠ .writing
      ∧ ((withGen { genWriting with profile := .dmp 16 }).gen.mode = .writing ∧ isTap (.dmp 16) = false)
      ∧ ((withGen genWriting).gen.mode = .writing ∧ isTap (withGen genWriting).gen.profile = true) := by decide

/-- The stream `GEN.START` begins is one the rules allow, and its finish completes. -/
theorem witness_FinishChangesOnlyTheLengthField :
    SpecConstants (withGen genWriting).params ∧ GenOk (withGen genWriting).params (withGen genWriting).gen
      ∧ (withGen genWriting).gen.mode = .writing
      ∧ exec .genFinish (withGen genWriting) = .next (perform .genFinish (withGen genWriting))
      ∧ isTap (withGen genWriting).gen.profile = true := ⟨by decide, genOk_genWriting, rfl, rfl, rfl⟩

theorem witness_SinkBytesOutsideAWriteStay :
    (exec (.genPulse 8#32) (withGen genWriting) = .next (perform (.genPulse 8#32) (withGen genWriting))
        ∧ 19 < (withGen genWriting).gen.sink.length)
      ∧ (exec (.parByte 1#8) (withGen genWriting) = .next (perform (.parByte 1#8) (withGen genWriting))
        ∧ Instr.parByte 1#8 ∉ [Instr.genStart, .genFinish, .genReset, .reset]) :=
  ⟨⟨rfl, by decide⟩, ⟨rfl, by decide⟩⟩

/-- A stream of no pulses and one of a pulse, with an unbounded buffer, and the second with one that just holds it. -/
theorem witness_GenerateThenParse :
    (∀ pulses ∈ [[], [800#32]], SpecConstants State.reset.params
        ∧ (∀ r ∈ (performAll (.genReset :: writeStream pulses) State.reset).1, r.status = .ok)
        ∧ (performAll (.genReset :: writeStream pulses) State.reset).2.gen.lossy = false)
      ∧ State.reset.params.parBufCap = none
      ∧ let s := withCaps (some 21) none State.reset
        SpecConstants s.params ∧ (∀ r ∈ (performAll (.genReset :: writeStream [800#32]) s).1, r.status = .ok)
          ∧ (performAll (.genReset :: writeStream [800#32]) s).2.gen.lossy = false
          ∧ s.params.parBufCap = some 21
          ∧ (performAll (.genReset :: writeStream [800#32]) s).2.gen.sink.length ≤ 21 := by decide

theorem witness_StepKeepsEncOk :
    EncOk Config.reference { withEnc encDown with port := [0x100000000064#48] }.enc
      ∧ step { withEnc encDown with port := [0x100000000064#48] }
        = .next (perform (.encSample 0x64#32) (withEnc encDown)) := ⟨encOk_encDown, rfl⟩

theorem witness_StepKeepsDecOk :
    DecOk Config.reference { withDec decTriangle with port := [0x210000000003#48] }.dec
      ∧ step { withDec decTriangle with port := [0x210000000003#48] }
        = .next (perform (.decPull 3#32) (withDec decTriangle)) := ⟨decOk_decTriangle, rfl⟩

theorem witness_StepKeepsGenOk :
    SpecConstants Config.reference ∧ GenOk Config.reference { withGen genWriting with port := [0x420000000000#48] }.gen
      ∧ step { withGen genWriting with port := [0x420000000000#48] }
        = .next (perform .genFinish (withGen genWriting)) := ⟨by decide, genOk_genWriting, rfl⟩

theorem witness_StepKeepsParOk :
    SpecConstants Config.reference ∧ ParOk Config.reference { withPar (parStream [0x64#8]) with port :=
      [0x310000000000#48] }.par
      ∧ step { withPar (parStream [0x64#8]) with port := [0x310000000000#48] }
        = .next (perform .parPull (withPar (parStream [0x64#8]))) := ⟨by decide, parOk_parStream, rfl⟩

end Sys2Proof.Tests
end

section
/-! The branches of `step`, an equation each, and the statements of 00_scope.md. -/

namespace Sys2Proof.Proofs

open Sys2Proof.Machine

/-! ### What a step does -/

/-- Nothing issued: the block holds its state (60_exceptions.md R935). -/
theorem step_of_port_nil {s : State} (hport : s.port = []) : step s = .next s := by
  rw [step, hport]

/-- An assigned, well-formed word: its command is performed with the word already off the port. -/
theorem step_of_decode_ok {s : State} {w : CommandWord} {rest : List CommandWord} {i : Instr}
    (hport : s.port = w :: rest) (hdecode : decode w = .ok i) :
    step s = exec i { s with port := rest } := by
  simp only [step, hport, hdecode]

/-- A word with no command is answered `ILLEGAL_CMD` with the word off the port (60_exceptions.md R904). -/
theorem step_of_decode_error {s : State} {w : CommandWord} {rest : List CommandWord} {e : DecodeError}
    (hport : s.port = w :: rest) (hdecode : decode w = .error e) :
    step s = refuse .illegalCmd { s with port := rest } := by
  simp only [step, hport, hdecode]

/-! ### The statements of 00_scope.md -/

/-- Settles O3: the two accepting branches of `step`. -/
theorem stepPerformsTheDecodedCommand : Obligations.StepPerformsTheDecodedCommand :=
  ⟨fun _ _ _ _ hport hdecode => step_of_decode_ok hport hdecode, fun _ hport => step_of_port_nil hport⟩

end Sys2Proof.Proofs
end

section
/-! What one command can do to each unit: for ENC, DEC and GEN every change a command can make, as a relation, and for
PAR the commands that reach it. Every command's outcome is one of them, so what every command keeps is proved on the
changes alone. -/

namespace Sys2Proof.Proofs

open Sys2Proof.Machine Sys2Proof.Claims Sys2Proof.Laws

/-! ### The changes of a unit -/

/-- The changes a command makes to ENC (41_encoder.md, 40_control.md R402, R405, R406). The count of a sample is `c`
before the sample is counted: 0 behind an emitted pulse, else the count as it stood. -/
inductive EncChange (params : Config.Params) (e : Enc) : Instr → Enc → Prop where
  | kept (i : Instr) : EncChange params e i e
  | ctrl (reg : Byte) (v : Word) : EncChange params e (.cfgWr reg v) (writeEncCtrl v e)
  | sens (reg : Byte) (v : Word) : EncChange params e (.cfgWr reg v) { e with sens := legalEncSens v }
  | minDur (reg : Byte) (v : Word) : EncChange params e (.cfgWr reg v) { e with minDur := v }
  | thresh (reg : Byte) (v : Word) : EncChange params e (.cfgWr reg v) { e with thresh := v }
  | counted (x : Word) (c : Nat) (running : e.mode = .running) (count : c = 0 ∨ c = e.count)
      (room : c ≠ Config.cntMax params) :
      EncChange params e (.encSample x) { (encDetect e (encInput params e x)).1 with count := c + 1 }
  | overflowed (x : Word) (c : Nat) (running : e.mode = .running) (full : c = Config.cntMax params) :
      EncChange params e (.encSample x)
        { (encDetect e (encInput params e x)).1 with count := c, fCntOvf := true, mode := .faulted }
  | flushed (running : e.mode = .running) : EncChange params e .encFlush { e with count := 0, mode := .ended }
  | unitReset : EncChange params e .encReset (encUnitReset e)
  | blockReset : EncChange params e .reset encReset

/-- The changes a command makes to DEC (42_decoder.md, 40_control.md R402, R405, R406). -/
inductive DecChange (params : Config.Params) (d : Dec) : Instr → Dec → Prop where
  | kept (i : Instr) : DecChange params d i d
  | ctrl (reg : Byte) (v : Word) : DecChange params d (.cfgWr reg v) { d with ctrl := legalDecCtrl v }
  | volume (reg : Byte) (v : Word) : DecChange params d (.cfgWr reg v) { d with volume := legalDecVolume v }
  | zeroPulse (p : Word) (running : d.mode = .running) :
      DecChange params d (.decPulse p) { d with fZero := true, mode := .faulted }
  | started (p : Word) (cur next : Sign) (running : d.mode = .running) :
      DecChange params d (.decPulse p) { d with
        plen := pulseOperand params p, rem := pulseOperand params p, curHalf := decHalf d.ctrl
        curSign := cur, nextSign := next }
  | pulled (n : Word) (m : Nat) (running : d.mode = .running) :
      DecChange params d (.decPull n) { d with rem := d.rem - m }
  | unitReset : DecChange params d .decReset (decUnitReset d)
  | blockReset : DecChange params d .reset decReset

/-- The changes a command makes to GEN (44_framing.md section 4, 40_control.md R402, R405, R406). -/
inductive GenChange (params : Config.Params) (g : Gen) : Instr → Gen → Prop where
  | kept (i : Instr) : GenChange params g i g
  | cfg (reg : Byte) (v : Word) : GenChange params g (.cfgWr reg v) { g with cfg := legalGenCfg v }
  | rate (reg : Byte) (v : Word) : GenChange params g (.cfgWr reg v) { g with rateReg := v }
  | unsupported (startable : g.mode ≠ .writing ∧ g.mode ≠ .faulted) :
      GenChange params g .genStart { g with fUnsupported := true, mode := .faulted }
  | zeroPulse (p : Word) (writing : g.mode = .writing) :
      GenChange params g (.genPulse p) { g with fZero := true, mode := .faulted }
  | noRoom (i : Instr) (writes : i = .genStart ∨ ∃ p, i = .genPulse p) :
      GenChange params g i { g with fLength := true, mode := .faulted }
  | started (plan : StreamPlan) (startable : g.mode ≠ .writing ∧ g.mode ≠ .faulted)
      (supported : streamPlan params g = some plan) (room : exceedsCap params.sinkCap plan.hdr.length = false) :
      GenChange params g .genStart (genStarted g plan)
  | wrote (p : Word) (out : List Byte) (lossless : Bool) (writing : g.mode = .writing)
      (room : genLengthExceeded params g out = false) :
      GenChange params g (.genPulse p) { g with sink := g.sink ++ out, lossy := g.lossy || !lossless }
  | finishedTap (writing : g.mode = .writing) (hdr : List Byte)
      (header : hdr = tapHeader g.machine g.video g.version (genWptr g - params.headerSize)) :
      GenChange params g .genFinish { g with sink := sinkWrite g.sink 0 hdr, hdr := hdr, mode := .done }
  | finishedDmp (writing : g.mode = .writing) : GenChange params g .genFinish { g with mode := .done }
  | unitReset : GenChange params g .genReset (genUnitReset g)
  | blockReset : GenChange params g .reset genReset

/-- What one command does to a state: a change of each unit, and none of the parameters. -/
structure StateChange (i : Instr) (s t : State) : Prop where
  params : t.params = s.params
  enc : EncChange s.params s.enc i t.enc
  dec : DecChange s.params s.dec i t.dec
  gen : GenChange s.params s.gen i t.gen
  par : touchesPar i = false → t.par = s.par

namespace StateChange

variable {i : Instr} {s t : State}

theorem refl (i : Instr) (s : State) : StateChange i s s :=
  ⟨rfl, .kept i, .kept i, .kept i, fun _ => rfl⟩

theorem ofEnc {e : Enc} (h : EncChange s.params s.enc i e) : StateChange i s { s with enc := e } :=
  { refl i s with enc := h }

theorem ofDec {d : Dec} (h : DecChange s.params s.dec i d) : StateChange i s { s with dec := d } :=
  { refl i s with dec := h }

theorem ofGen {g : Gen} (h : GenChange s.params s.gen i g) : StateChange i s { s with gen := g } :=
  { refl i s with gen := h }

theorem ofPar (h : touchesPar i = true) (p : Par) : StateChange i s { s with par := p } :=
  { refl i s with par := fun hf => by simp [h] at hf }

/-- A response is no part of a unit, so a command changes what the state it responds from has changed. -/
theorem respond {s' : State} {st : Status} {words : List Word} (ht : respond st words s' = .next t)
    (h : StateChange i s s') : StateChange i s t := by
  cases ht
  exact { h with }

theorem raise {f : UnitFault} {s' : State} (ht : raise f s' = .next t)
    (h : StateChange i s (faultEffect f s')) : StateChange i s t := .respond ht h

theorem refuse {st : Status} (ht : refuse st s = .next t) : StateChange i s t := .respond ht (refl i s)

end StateChange

/-! ### The change each command makes -/

section
variable {s t : State}

theorem cfgWr_stateChange {reg : Byte} {v : Word} (h : exec (.cfgWr reg v) s = .next t) :
    StateChange (.cfgWr reg v) s t := by
  have write : ∀ {r s'}, writeReg r v s = some s' → StateChange (.cfgWr reg v) s s' := by
    intro r s' hw
    cases r with
    | encCtrl => cases hw; exact .ofEnc (.ctrl reg v)
    | encSens => cases hw; exact .ofEnc (.sens reg v)
    | encMinDur => cases hw; exact .ofEnc (.minDur reg v)
    | encThresh => cases hw; exact .ofEnc (.thresh reg v)
    | decCtrl => cases hw; exact .ofDec (.ctrl reg v)
    | decVolume => cases hw; exact .ofDec (.volume reg v)
    | genCfg => cases hw; exact .ofGen (.cfg reg v)
    | genRate => cases hw; exact .ofGen (.rate reg v)
    | _ => cases hw
  simp only [exec, execCfgWr] at h
  split at h
  · next s' hw =>
    obtain ⟨r, -, hw⟩ := Option.bind_eq_some_iff.mp hw
    exact .respond h (write hw)
  · exact .refuse h

theorem cfgRd_stateChange {reg : Byte} (h : exec (.cfgRd reg) s = .next t) : StateChange (.cfgRd reg) s t := by
  simp only [exec, execCfgRd] at h
  split at h
  · exact .respond h (.refl _ s)
  · exact .refuse h

theorem reset_stateChange (h : exec .reset s = .next t) : StateChange .reset s t := by
  cases h
  exact ⟨rfl, .blockReset, .blockReset, .blockReset, nofun⟩

theorem encSample_stateChange {x : Word} (h : exec (.encSample x) s = .next t) : StateChange (.encSample x) s t := by
  have count : ∀ {c words}, s.enc.mode = .running → c = 0 ∨ c = s.enc.count →
      encCountSample words
        { s with enc := { (encDetect s.enc (encInput s.params s.enc x)).1 with count := c } } = .next t →
      StateChange (.encSample x) s t := by
    intro c words hrun hc h
    by_cases hfull : c = Config.cntMax s.params
    · rw [encCountSample_full words hfull] at h
      cases h
      exact { StateChange.ofEnc (.overflowed x c hrun hfull) with }
    · rw [encCountSample_counts words hfull] at h
      cases h
      exact { StateChange.ofEnc (.counted x c hrun hc hfull) with }
  simp only [exec, execEncSample] at h
  split at h
  · exact .refuse h
  · next hrun =>
    have hrun := not_not.mp hrun
    split at h
    · exact count hrun (.inl rfl) h
    · exact count hrun (.inr (encDetect_frame _ _).2.2.2.2.2.1) h

theorem encFlush_stateChange (h : exec .encFlush s = .next t) : StateChange .encFlush s t := by
  simp only [exec, execEncFlush] at h
  split at h
  · exact .refuse h
  · next hrun => exact .respond h (.ofEnc (.flushed (not_not.mp hrun)))

theorem decPulse_stateChange {p : Word} (h : exec (.decPulse p) s = .next t) : StateChange (.decPulse p) s t := by
  simp only [exec, execDecPulse] at h
  split at h
  · exact .refuse h
  · next hrun =>
    have hrun := not_not.mp hrun
    split at h
    · exact .refuse h
    · split at h
      · exact .raise h (.ofDec (.zeroPulse p hrun))
      · split at h
        · exact .respond h (.ofDec (.started p _ _ hrun))
        · exact .respond h (.ofDec (.started p _ _ hrun))

theorem decPull_stateChange {n : Word} (h : exec (.decPull n) s = .next t) : StateChange (.decPull n) s t := by
  simp only [exec, execDecPull, decPullLoop_eq] at h
  split at h
  · exact .refuse h
  · next hrun => exact .respond h (.ofDec (.pulled n _ (not_not.mp hrun)))

theorem genStart_stateChange (h : exec .genStart s = .next t) : StateChange .genStart s t := by
  simp only [exec, execGenStart] at h
  split at h
  · exact .refuse h
  · next hclosed =>
    have hopen := not_or.mp hclosed
    split at h
    · exact .raise h (.ofGen (.unsupported hopen))
    · next plan hplan =>
      split at h
      · exact .raise h (.ofGen (.noRoom _ (.inl rfl)))
      · next hroom =>
        exact .respond h (.ofGen (.started plan hopen hplan (Bool.eq_false_of_not_eq_true hroom)))

theorem genPulse_stateChange {p : Word} (h : exec (.genPulse p) s = .next t) : StateChange (.genPulse p) s t := by
  simp only [exec, execGenPulse, genWptr, sinkWrite_end] at h
  split at h
  · exact .refuse h
  · next hmode =>
    have hmode := not_not.mp hmode
    split at h
    · exact .raise h (.ofGen (.zeroPulse p hmode))
    · split at h
      · exact .raise h (.ofGen (.noRoom _ (.inr ⟨p, rfl⟩)))
      · next hroom =>
        exact .respond h (.ofGen (.wrote p _ _ hmode (Bool.eq_false_of_not_eq_true hroom)))

theorem genFinish_stateChange (h : exec .genFinish s = .next t) : StateChange .genFinish s t := by
  simp only [exec, execGenFinish] at h
  split at h
  · exact .refuse h
  · next hmode =>
    have hmode := not_not.mp hmode
    split at h
    · exact .respond h (.ofGen (.finishedTap hmode _ rfl))
    · exact .respond h (.ofGen (.finishedDmp hmode))

theorem parByte_stateChange {b : Byte} (h : exec (.parByte b) s = .next t) : StateChange (.parByte b) s t := by
  simp only [exec, execParByte] at h
  split at h
  · exact .refuse h
  · split at h
    · exact .refuse h
    · split at h
      · simp only [parCheckHeader] at h
        split at h
        · exact .raise h (.ofPar rfl _)
        · exact .respond h (.ofPar rfl _)
      · exact .respond h (.ofPar rfl _)

/-- The `NeedMore` arm of a pull writes nothing but PAR and the response. -/
theorem parNeedMore_stateChange (h : parNeedMore s = .next t) : StateChange .parPull s t := by
  simp only [parNeedMore] at h
  split at h
  · exact .respond h (.refl _ s)
  · split at h
    · exact .respond h (.ofPar rfl _)
    · exact .raise h (.ofPar rfl _)

/-- A pull that starts from another PAR writes no more of the other units. -/
theorem StateChange.parPull_from {p : Par} (h : StateChange .parPull { s with par := p } t) :
    StateChange .parPull s t := ⟨h.params, h.enc, h.dec, h.gen, nofun⟩

theorem parPullLoop_stateChange {fuel : Nat} (h : parPullLoop fuel s = .next t) : StateChange .parPull s t := by
  induction fuel generalizing s with
  | zero => exact parNeedMore_stateChange h
  | succ fuel ih =>
    unfold parPullLoop at h
    split at h
    · exact .respond h (.ofPar rfl _)
    · exact (ih h).parPull_from
    · exact .raise h (.ofPar rfl _)
    · exact .raise h (.ofPar rfl _)
    · exact parNeedMore_stateChange h

theorem parPull_stateChange (h : exec .parPull s = .next t) : StateChange .parPull s t := by
  simp only [exec, execParPull] at h
  split at h
  · exact .refuse h
  · exact .respond h (.refl _ s)
  · exact .respond h (.refl _ s)
  · exact parPullLoop_stateChange h

theorem parEos_stateChange (h : exec .parEos s = .next t) : StateChange .parEos s t := by
  simp only [exec, execParEos] at h
  split at h
  · exact .refuse h
  · split at h
    · exact .raise h (.ofPar rfl _)
    · exact .respond h (.ofPar rfl _)

/-- Every command's outcome is a change of each unit (40_control.md R406, 60_exceptions.md R933). -/
theorem exec_stateChange {i : Instr} (h : exec i s = .next t) : StateChange i s t := by
  cases i with
  | nop => exact .respond h (.refl _ s)
  | cfgWr reg v => exact cfgWr_stateChange h
  | cfgRd reg => exact cfgRd_stateChange h
  | reset => exact reset_stateChange h
  | encSample x => exact encSample_stateChange h
  | encFlush => exact encFlush_stateChange h
  | encReset => exact .respond h (.ofEnc .unitReset)
  | decPulse p => exact decPulse_stateChange h
  | decPull n => exact decPull_stateChange h
  | decReset => exact .respond h (.ofDec .unitReset)
  | parByte b => exact parByte_stateChange h
  | parPull => exact parPull_stateChange h
  | parEos => exact parEos_stateChange h
  | parReset => exact .respond h (.ofPar rfl _)
  | genStart => exact genStart_stateChange h
  | genPulse p => exact genPulse_stateChange h
  | genFinish => exact genFinish_stateChange h
  | genReset => exact .respond h (.ofGen .unitReset)

/-- What no word of the port and no response bears on, and every command keeps, every step keeps: a step performs a
command, or refuses an illegal word, or has none to perform (30_encoding.md R305, 60_exceptions.md R904, R935). -/
theorem step_keeps {Inv : State → Prop}
    (unheard : ∀ (s : State) (port : List CommandWord) (r : Response),
      Inv s → Inv { s with port := port, response := r })
    (keeps : ∀ (i : Instr) (s t : State), Inv s → exec i s = .next t → Inv t)
    (hs : Inv s) (h : step s = .next t) : Inv t := by
  cases hport : s.port with
  | nil => rw [step_of_port_nil hport] at h; cases h; exact hs
  | cons w rest =>
    cases hdecode : decode w with
    | ok i =>
      rw [step_of_decode_ok hport hdecode] at h
      exact keeps i _ t (unheard s rest s.response hs) h
    | error e =>
      rw [step_of_decode_error hport hdecode] at h
      cases h
      exact unheard s rest _ hs

end

end Sys2Proof.Proofs
end

section
/-! The invariants of ENC, DEC and GEN: each change of the unit keeps its invariant, so every step does
(10_state.md). -/

namespace Sys2Proof.Proofs

open Sys2Proof.Machine Sys2Proof.Claims Sys2Proof.Laws

/-! ### Register writes store legal values -/

theorem legalEncCtrl_idem (v : Word) : legalEncCtrl (legalEncCtrl v) = legalEncCtrl v := by
  simp [legalEncCtrl, BitVec.and_assoc]

theorem legalDecVolume_idem (v : Word) : legalDecVolume (legalDecVolume v) = legalDecVolume v := by
  simp [legalDecVolume, BitVec.and_assoc]

theorem legalGenCfg_idem (v : Word) : legalGenCfg (legalGenCfg v) = legalGenCfg v := by
  simp [legalGenCfg, BitVec.and_assoc]

theorem legalEncSens_le (v : Word) : (legalEncSens v).toNat ≤ 100 := by
  rw [legalEncSens, natWord_toNat (by omega)]
  exact Nat.min_le_right _ _

/-- A mask acts on `SHAPE` by its own low two bits (10_state.md R120). -/
theorem decShape_and (v mask : Word) :
    decShape (v &&& mask) = (v.extractLsb' 0 2 &&& mask.extractLsb' 0 2).toNat := by
  rw [decShape, BitVec.extractLsb'_and]

/-- A stored `SHAPE` 3 reads as 0, and every other stays, so a second write stores the same (10_state.md R120). -/
theorem legalDecCtrl_idem (v : Word) : legalDecCtrl (legalDecCtrl v) = legalDecCtrl v := by
  by_cases hshape : decShape v = 3
  · have hzero : decShape (v &&& 0xC#32) = 0 := by rw [decShape_and]; simp
    simp [legalDecCtrl, hshape, hzero, BitVec.and_assoc]
  · have hkept : decShape (v &&& 0xF#32) = decShape v := by
      rw [decShape_and, decShape, show (0xF#32).extractLsb' 0 2 = BitVec.allOnes 2 from rfl, BitVec.and_allOnes]
    simp [legalDecCtrl, hshape, hkept, BitVec.and_assoc]

/-! ### ENC -/

/-- A narrower sample has a smaller value and a wider one the operand's own, so 32 bits bound it at every width
(41_encoder.md R503, 00_scope.md R11). -/
theorem sampleOperand_range (params : Config.Params) (x : Word) :
    -2 ^ 31 ≤ sampleOperand params x ∧ sampleOperand params x ≤ 2 ^ 31 := by
  have hlo := BitVec.le_toInt x
  have hhi := BitVec.toInt_lt (x := x)
  rw [sampleOperand, asInt]
  by_cases hw : params.wSample ≤ 31
  · have hpow : (2 : Nat) ^ params.wSample ≤ 2 ^ 31 := Nat.pow_le_pow_right (by decide) hw
    have hpos := Nat.two_pow_pos params.wSample
    have hmin := Int.le_bmod (x := x.toInt) hpos
    have hmax := Int.bmod_lt (x := x.toInt) hpos
    omega
  · have hpow : (2 : Nat) ^ 32 ≤ 2 ^ params.wSample := Nat.pow_le_pow_right (by decide) (by omega)
    rw [Int.bmod_eq_of_le (by omega) (by omega)]
    omega

/-- The range is symmetric, so `INVERT` keeps it (41_encoder.md R513). -/
theorem encInput_range (params : Config.Params) (e : Enc) (x : Word) :
    -2 ^ 31 ≤ encInput params e x ∧ encInput params e x ≤ 2 ^ 31 := by
  have hsample := sampleOperand_range params x
  rw [encInput]
  split <;> omega

/-- Everything the detector does to ENC: nothing, or the input becomes the extremum of an armed detector, whose level is
the old one, the threshold that armed it, or the excursion of the turn (41_encoder.md R507, R509). -/
theorem encDetect_cases (e : Enc) (x : Int) :
    (encDetect e x).1 = e ∨ ∃ dir level,
      (encDetect e x).1 = { e with armed := true, dir := dir, ext := x, level := level } ∧
        (level = e.level ∨ level = e.thresh.toNat ∨ level = (e.ext - x).natAbs) := by
  cases harmed : e.armed with
  | false =>
    rw [encDetect_unarmed harmed, encArm]
    split
    · exact .inr ⟨_, _, rfl, .inr (.inl rfl)⟩
    · exact .inl rfl
  | true =>
    cases hdir : e.dir with
    | up =>
      rw [encDetect_up harmed hdir, encTrackUp]
      split
      · exact .inr ⟨e.dir, e.level, by rw [← harmed], .inl rfl⟩
      · dsimp only
        split
        · exact .inr ⟨.down, _, by rw [← harmed], .inr (.inr (by omega))⟩
        · exact .inl rfl
    | down =>
      rw [encDetect_down harmed hdir, encTrackDown]
      split
      · exact .inr ⟨e.dir, e.level, by rw [← harmed], .inl rfl⟩
      · dsimp only
        split
        · exact .inr ⟨.up, _, by rw [← harmed], .inr (.inr (by omega))⟩
        · exact .inl rfl

section
variable {params : Config.Params} {e e' : Enc} {i : Instr}

/-- The detector keeps the invariant on an input in range, whatever count in range, fault bit and mode the command then
leaves (41_encoder.md R513). -/
theorem encOk_detect (hok : EncOk params e) {x : Int} (hx : -2 ^ 31 ≤ x ∧ x ≤ 2 ^ 31) {c : Nat} {f : Bool}
    {m : EncMode} (hcount : c ≤ Config.cntMax params) (hfault : f = true ↔ m = .faulted)
    (hcounted : m = .running → 1 ≤ c) :
    EncOk params { (encDetect e x).1 with count := c, fCntOvf := f, mode := m } := by
  obtain ⟨hext₁, hext₂⟩ := hok.ext_range
  have hthresh := e.thresh.isLt
  obtain heq | ⟨dir, level, heq, hlevel⟩ := encDetect_cases e x
  · rw [heq]
    exact { hok with count_range := hcount, fault_iff := hfault, counted := fun _ => hcounted }
  · rw [heq]
    have hlevel : level ≤ 2 ^ 32 := by
      obtain rfl | rfl | rfl := hlevel
      · exact hok.level_range
      · omega
      · omega
    exact { hok with
      ext_range := hx, level_range := hlevel, count_range := hcount, fault_iff := hfault
      unarmed := nofun, counted := fun _ => hcounted }

/-- A write of ENC_CTRL negates the extremum and reverses the direction of an armed detector at most (41_encoder.md
R516). -/
theorem encOk_writeEncCtrl (hok : EncOk params e) (v : Word) : EncOk params (writeEncCtrl v e) := by
  have hlegal := legalEncCtrl_idem v
  unfold writeEncCtrl
  dsimp only
  split
  · next hflip =>
    have harmed : e.armed = true := (Bool.and_eq_true_iff.mp hflip).1
    obtain ⟨hext₁, hext₂⟩ := hok.ext_range
    exact { hok with
      ctrl_legal := hlegal
      ext_range := ⟨Int.neg_le_neg hext₂, Int.neg_le_of_neg_le hext₁⟩
      unarmed := by simp [harmed] }
  · exact { hok with ctrl_legal := hlegal }

theorem encOk_unitReset (hctrl : legalEncCtrl e.ctrl = e.ctrl) (hsens : e.sens.toNat ≤ 100) :
    EncOk params (encUnitReset e) where
  ctrl_legal := hctrl
  sens_legal := hsens
  ext_range := by simp
  level_range := Nat.zero_le _
  count_range := Nat.zero_le _
  fault_iff := by simp
  unarmed := fun _ => ⟨rfl, rfl, rfl⟩
  counted := nofun

theorem encOk_change (hok : EncOk params e) (h : EncChange params e i e') : EncOk params e' := by
  cases h with
  | kept => exact hok
  | ctrl reg v => exact encOk_writeEncCtrl hok v
  | sens reg v => exact { hok with sens_legal := legalEncSens_le v }
  | minDur => exact { hok with }
  | thresh => exact { hok with }
  | counted x c running count room =>
    obtain ⟨-, -, -, -, hmode, -, hbit⟩ := encDetect_frame e (encInput params e x)
    have hc : c ≤ Config.cntMax params := by
      obtain rfl | rfl := count
      · exact Nat.zero_le _
      · exact hok.count_range
    exact encOk_detect hok (encInput_range params e x) (by omega) (by rw [hmode, hbit]; exact hok.fault_iff)
      (fun _ => Nat.succ_pos c)
  | overflowed x c running full => exact encOk_detect hok (encInput_range params e x) full.le (by simp) nofun
  | flushed running =>
    have hfault := hok.fault_iff
    exact { hok with
      count_range := Nat.zero_le _, fault_iff := by simpa [running] using hfault, counted := nofun }
  | unitReset => exact encOk_unitReset hok.ctrl_legal hok.sens_legal
  | blockReset => exact encOk_unitReset (e := encReset) rfl (by decide)

/-- No command but the resets clears the fault bit (10_state.md R114). -/
theorem encChange_fCntOvf (h : EncChange params e i e') (hi : i ∉ [Instr.encReset, .reset])
    (hf : e.fCntOvf = true) : e'.fCntOvf = true := by
  cases h with
  | ctrl reg v => rw [writeEncCtrl_fCntOvf]; exact hf
  | counted x =>
    obtain ⟨-, -, -, -, -, -, hbit⟩ := encDetect_frame e (encInput params e x)
    exact hbit.trans hf
  | overflowed => rfl
  | unitReset => simp at hi
  | blockReset => simp at hi
  | _ => exact hf

end

/-- Settles O56: every change a command makes to ENC keeps the invariant. -/
theorem stepKeepsEncOk : Obligations.StepKeepsEncOk := by
  intro s t hok h
  refine step_keeps (Inv := fun s => EncOk s.params s.enc) (fun _ _ _ hs => hs) ?_ hok h
  intro i s t hs hexec
  have hchange := exec_stateChange hexec
  exact hchange.params ▸ encOk_change hs hchange.enc

/-! ### DEC -/

section
variable {params : Config.Params} {d d' : Dec} {i : Instr}

theorem decOk_unitReset (hctrl : legalDecCtrl d.ctrl = d.ctrl) (hvolume : legalDecVolume d.volume = d.volume) :
    DecOk params (decUnitReset d) where
  ctrl_legal := hctrl
  volume_legal := hvolume
  rem_le := Nat.le_refl _
  plen_range := Nat.zero_le _
  fault_iff := by simp

theorem decOk_change (hok : DecOk params d) (h : DecChange params d i d') : DecOk params d' := by
  cases h with
  | kept => exact hok
  | ctrl reg v => exact { hok with ctrl_legal := legalDecCtrl_idem v }
  | volume reg v => exact { hok with volume_legal := legalDecVolume_idem v }
  | zeroPulse => exact { hok with fault_iff := by simp }
  | started p cur next running => exact { hok with rem_le := Nat.le_refl _, plen_range := pulseOperand_le params p }
  | pulled n m running => exact { hok with rem_le := (Nat.sub_le _ _).trans hok.rem_le }
  | unitReset => exact decOk_unitReset hok.ctrl_legal hok.volume_legal
  | blockReset => exact decOk_unitReset (d := decReset) rfl rfl

/-- No command but the resets clears the fault bit (10_state.md R122). -/
theorem decChange_fZero (h : DecChange params d i d') (hi : i ∉ [Instr.decReset, .reset]) (hf : d.fZero = true) :
    d'.fZero = true := by
  cases h with
  | zeroPulse => rfl
  | unitReset => simp at hi
  | blockReset => simp at hi
  | _ => exact hf

end

/-- Settles O57: every change a command makes to DEC keeps the invariant. -/
theorem stepKeepsDecOk : Obligations.StepKeepsDecOk := by
  intro s t hok h
  refine step_keeps (Inv := fun s => DecOk s.params s.dec) (fun _ _ _ hs => hs) ?_ hok h
  intro i s t hs hexec
  have hchange := exec_stateChange hexec
  exact hchange.params ▸ decOk_change hs hchange.dec

/-! ### GEN -/

@[simp] theorem tapHeader_length (m : Config.Computer) (v : Config.VideoStd) (ver : Byte) (len : Nat) :
    (tapHeader m v ver len).length = 20 := by
  have hsig : (tapSignature m).length = 12 := by cases m <;> rfl
  simp [tapHeader, hsig]

/-- A supported configuration plans a legal profile with its own version byte, and for TAP a header with the placeholder
length 0 (44_framing.md R840, 10_state.md R148). -/
theorem streamPlan_sound {params : Config.Params} {g : Gen} {plan : StreamPlan}
    (h : streamPlan params g = some plan) :
    profileOk plan.profile ∧ plan.version = profileVersion plan.profile ∧
      (isTap plan.profile = true → plan.hdr = tapHeader plan.machine plan.video plan.version 0) := by
  unfold streamPlan at h
  split at h
  · cases h
  · split at h
    · unfold dmpPlan at h
      split at h
      · cases h
      · split at h
        · next hbps => cases h; exact ⟨hbps, rfl, nofun⟩
        · cases h
    · simp only [tapPlan, Option.map_eq_some_iff] at h
      obtain ⟨⟨profile, version⟩, hversion, rfl⟩ := h
      suffices hprofile : profileOk profile ∧ version = profileVersion profile from
        ⟨hprofile.1, hprofile.2, fun _ => rfl⟩
      unfold tapStreamVersion at hversion
      split at hversion <;> cases hversion <;> exact ⟨trivial, rfl⟩

/-- Bytes that do not exceed a capacity are within it (20_memory.md R206). -/
theorem le_of_exceedsCap_eq_false {cap : Option Nat} {n c : Nat} (h : exceedsCap cap n = false) (hc : cap = some c) :
    n ≤ c := by
  subst hc
  simpa [exceedsCap] using h

section
variable {params : Config.Params} {g g' : Gen} {i : Instr}

/-- A fault sets its bit and the mode, on which nothing else of the invariant rests (60_exceptions.md R910 to R914). -/
theorem genOk_faulted (hok : GenOk params g) {u z l : Bool} (h : u = true ∨ z = true ∨ l = true) :
    GenOk params { g with fUnsupported := u, fZero := z, fLength := l, mode := .faulted } :=
  { hok with
    tap_placeholder := nofun, sink_started := nofun, idle_empty := nofun, fault_iff := iff_of_true h rfl }

theorem genOk_unitReset (hsize : params.headerSize = 20) (hcfg : legalGenCfg g.cfg = g.cfg) :
    GenOk params (genUnitReset g) where
  cfg_legal := hcfg
  hdr_length := by simp [hsize]
  profile_ok := trivial
  version_of_profile := rfl
  sink_header := .inl rfl
  tap_placeholder := nofun
  sink_started := by simp
  section_bound := fun _ => Nat.zero_le _
  sink_cap := fun _ _ => Nat.zero_le _
  idle_empty := fun _ => rfl
  fault_iff := by simp

/-- A started stream is its header alone (44_framing.md R840). -/
theorem genOk_started (hsize : params.headerSize = 20) (hok : GenOk params g) {plan : StreamPlan}
    (startable : g.mode ≠ .writing ∧ g.mode ≠ .faulted) (supported : streamPlan params g = some plan)
    (room : exceedsCap params.sinkCap plan.hdr.length = false) : GenOk params (genStarted g plan) := by
  have hlen := streamPlan_hdr_length supported
  obtain ⟨hprofile, hversion, hheader⟩ := streamPlan_sound supported
  have hsink : (genStarted g plan).sink = plan.hdr := by simp [genStarted, sinkWrite]
  have hclear := mt hok.fault_iff.mp startable.2
  exact {
    cfg_legal := hok.cfg_legal
    hdr_length := by rw [genStarted_hdr, hlen, hsize]
    profile_ok := hprofile
    version_of_profile := hversion
    sink_header := .inr (by rw [hsink, genStarted_hdr, hsize, ← hlen, List.take_length])
    tap_placeholder := fun _ => hheader
    sink_started := fun _ => by rw [hsink, hlen, hsize]
    section_bound := fun _ => by rw [hsink, hlen, hsize]; omega
    sink_cap := fun c hc => by rw [hsink]; exact le_of_exceedsCap_eq_false room hc
    idle_empty := nofun
    fault_iff := iff_of_false hclear nofun }

/-- Pulse bytes go behind the header, and no further than the length field and the capacity allow (44_framing.md
R844). -/
theorem genOk_wrote (hsize : params.headerSize = 20) (hok : GenOk params g) {out : List Byte} {lossy : Bool}
    (writing : g.mode = .writing) (room : genLengthExceeded params g out = false) :
    GenOk params { g with sink := g.sink ++ out, lossy := lossy } := by
  obtain ⟨hsection, hcap⟩ := Bool.or_eq_false_iff.mp room
  have hstarted := hok.sink_started (.inl writing)
  exact { hok with
    sink_header := by
      refine hok.sink_header.imp (fun hempty => ?_) (fun hheader => ?_)
      · rw [hempty, hsize] at hstarted; exact absurd hstarted (by decide)
      · rw [List.take_append_of_le_length hstarted]; exact hheader
    sink_started := fun _ => hstarted.trans (by simp)
    section_bound := fun htap => by
      rw [htap, Bool.true_and, decide_eq_false_iff_not, Nat.not_lt] at hsection
      rwa [List.length_append]
    sink_cap := fun c hc => by simpa [genWptr] using le_of_exceedsCap_eq_false hcap hc
    idle_empty := by simp [writing] }

/-- The final header replaces the placeholder byte for byte, so the sink keeps its length (44_framing.md R846). -/
theorem genOk_finishedTap (hsize : params.headerSize = 20) (hok : GenOk params g) (writing : g.mode = .writing)
    {hdr : List Byte} (hlen : hdr.length = 20) :
    GenOk params { g with sink := sinkWrite g.sink 0 hdr, hdr := hdr, mode := .done } := by
  have hstarted := hok.sink_started (.inl writing)
  have hsink : (sinkWrite g.sink 0 hdr).length = g.sink.length := by
    rw [sinkWrite_length hdr (Nat.zero_le _)]; omega
  have hfault := hok.fault_iff
  exact { hok with
    hdr_length := by rw [hlen, hsize]
    sink_header := .inr (by rw [sinkWrite_zero, hsize, ← hlen, List.take_left])
    tap_placeholder := nofun
    sink_started := fun _ => by rw [hsink]; exact hstarted
    section_bound := by rw [hsink]; exact hok.section_bound
    sink_cap := by rw [hsink]; exact hok.sink_cap
    idle_empty := nofun
    fault_iff := by simpa [writing] using hfault }

theorem genOk_finishedDmp (hok : GenOk params g) (writing : g.mode = .writing) :
    GenOk params { g with mode := .done } := by
  have hfault := hok.fault_iff
  exact { hok with
    tap_placeholder := nofun, sink_started := fun _ => hok.sink_started (.inl writing), idle_empty := nofun
    fault_iff := by simpa [writing] using hfault }

theorem genOk_change (hsize : params.headerSize = 20) (hok : GenOk params g) (h : GenChange params g i g') :
    GenOk params g' := by
  cases h with
  | kept => exact hok
  | cfg reg v => exact { hok with cfg_legal := legalGenCfg_idem v }
  | rate => exact { hok with }
  | unsupported => exact genOk_faulted hok (.inl rfl)
  | zeroPulse => exact genOk_faulted hok (.inr (.inl rfl))
  | noRoom => exact genOk_faulted hok (.inr (.inr rfl))
  | started plan startable supported room => exact genOk_started hsize hok startable supported room
  | wrote p out lossless writing room => exact genOk_wrote hsize hok writing room
  | finishedTap writing hdr header => exact genOk_finishedTap hsize hok writing (by simp [header])
  | finishedDmp writing => exact genOk_finishedDmp hok writing
  | unitReset => exact genOk_unitReset hsize hok.cfg_legal
  | blockReset => exact genOk_unitReset (g := genReset) hsize rfl

/-- No command but the resets clears a fault bit (10_state.md R132). -/
theorem genChange_faultBits (h : GenChange params g i g') (hi : i ∉ [Instr.genReset, .reset]) :
    (g.fUnsupported = true → g'.fUnsupported = true) ∧ (g.fZero = true → g'.fZero = true) ∧
      (g.fLength = true → g'.fLength = true) := by
  cases h with
  | unsupported => exact ⟨fun _ => rfl, id, id⟩
  | zeroPulse => exact ⟨id, fun _ => rfl, id⟩
  | noRoom => exact ⟨id, id, fun _ => rfl⟩
  | unitReset => simp at hi
  | blockReset => simp at hi
  | _ => exact ⟨id, id, id⟩

/-- No command but `GEN.START` and the resets clears LOSSY (10_state.md R132). -/
theorem genChange_lossy (h : GenChange params g i g') (hi : i ∉ [Instr.genReset, .reset]) (hstart : i ≠ .genStart)
    (hf : g.lossy = true) : g'.lossy = true := by
  cases h with
  | started => exact absurd rfl hstart
  | wrote => simp [hf]
  | unitReset => simp at hi
  | blockReset => simp at hi
  | _ => exact hf

end

/-- Settles O58: every change a command makes to GEN keeps the invariant. -/
theorem stepKeepsGenOk : Obligations.StepKeepsGenOk := by
  intro s t ⟨_, _, _, hsize, _⟩ hok h
  refine (step_keeps (Inv := fun s => s.params.headerSize = 20 ∧ GenOk s.params s.gen) (fun _ _ _ hs => hs) ?_
    ⟨hsize, hok⟩ h).2
  intro i s t ⟨hsize, hs⟩ hexec
  have hchange := exec_stateChange hexec
  rw [hchange.params]
  exact ⟨hsize, genOk_change hsize hs hchange.gen⟩

end Sys2Proof.Proofs
end

section
/-! PAR's invariant: how far a decoded pulse reaches in the input buffer, and each write of PAR's commands
(43_overflow_codec.md R720, 10_state.md R143). -/

namespace Sys2Proof.Proofs

open Sys2Proof.Machine Sys2Proof.Claims Sys2Proof.Laws

/-! ### How far a decoded pulse reaches -/

/-- The offset behind a pulse that is decoded whole, of value 0 or more; none when there is no whole pulse. -/
def pulseEnd : OvfOutcome → Option Nat
  | .pulse _ next => some next
  | .skip next => some next
  | .needMore => none
  | .invalid _ => none

theorem pulseEnd_ovfFinal {params : Config.Params} {acc next j : Nat}
    (h : pulseEnd (ovfFinal params acc next) = some j) : j = next := by
  unfold ovfFinal at h
  split at h
  · cases h
  · split at h <;> cases h <;> rfl

/-- The fields of a pulse are one byte or more each and lie inside the bytes (43_overflow_codec.md R702). -/
theorem pulseEnd_ovfFields {params : Config.Params} {field : List Byte → Field} (hf : FieldSound field)
    {fuel acc next j : Nat} {bytes : List Byte} (h : pulseEnd (ovfFields params field fuel acc bytes next) = some j) :
    next < j ∧ j ≤ next + bytes.length := by
  induction fuel generalizing acc bytes next with
  | zero => cases h
  | succ fuel ih =>
    unfold ovfFields at h
    split at h
    · cases h
    · cases h
    · next value size hlast =>
      have hsize := hf.last_size _ _ _ hlast
      have hj := pulseEnd_ovfFinal h
      omega
    · next value size hcontinues =>
      have hsize := hf.continues_size _ _ _ hcontinues
      split at h
      · cases h
      · have hrest := ih h
        rw [List.length_drop] at hrest
        omega

/-- A TAP v0 pulse is one byte, or a run of zero bytes (43_overflow_codec.md R725). -/
theorem pulseEnd_decodeTapV0 {params : Config.Params} {bytes : List Byte} {next j : Nat} {eos : Bool}
    (h : pulseEnd (decodeTapV0 params bytes next eos) = some j) : next < j ∧ j ≤ next + bytes.length := by
  unfold decodeTapV0 at h
  split at h
  · cases h
  · next b rest =>
    split at h
    · have hj := pulseEnd_ovfFinal h
      rw [List.length_cons]
      omega
    · next hzero =>
      have hrun := zeroRun_le (b :: rest)
      have hpos : 0 < zeroRun (b :: rest) := by simp [zeroRun, not_not.mp hzero]
      split at h
      · cases h
      · split at h
        · cases h
        · have hj := pulseEnd_ovfFinal h
          omega

/-- A decoded pulse takes a byte or more of the buffer and ends inside it (43_overflow_codec.md R720). -/
theorem pulseEnd_ovfDecode {params : Config.Params} {profile : Profile} {buf : List Byte} {i j : Nat} {eos : Bool}
    (hprofile : profileOk profile) (hi : i ≤ buf.length)
    (h : pulseEnd (ovfDecode params profile buf i eos) = some j) : i < j ∧ j ≤ buf.length := by
  suffices hj : i < j ∧ j ≤ i + (buf.drop i).length by rw [List.length_drop] at hj; omega
  cases profile with
  | tapV0 => exact pulseEnd_decodeTapV0 h
  | tapV1 => exact pulseEnd_ovfFields (tapV1Field_sound params) h
  | tapV2 => exact pulseEnd_ovfFields (tapV1Field_sound params) h
  | dmp b => exact pulseEnd_ovfFields (dmpField_sound hprofile.1) h

/-! ### The header -/

/-- A failing check names one of the errors (44_framing.md R810). -/
theorem validateHeader_error_ne_none {h : List Byte} {err : ParErr} (hv : validateHeader h = .error err) :
    err ≠ .none := by
  unfold validateHeader at hv
  split at hv
  · cases hv; decide
  · split at hv
    · cases hv; decide
    · split at hv
      · cases hv; decide
      · split at hv <;> split at hv <;> cases hv <;> decide

/-- A valid DMP header has 1 to 32 bits per sample (44_framing.md R815). -/
theorem validateHeader_dmp_bps {h : List Byte} {fam : Family} (hv : validateHeader h = .ok (.dmp, fam)) :
    1 ≤ (byteAt h 15).toNat ∧ (byteAt h 15).toNat ≤ 32 := by
  unfold validateHeader at hv
  split at hv
  · cases hv
  · split at hv
    · cases hv
    · split at hv
      · cases hv
      · split at hv <;> split at hv
        · cases hv
        · cases hv
        · assumption
        · cases hv

/-- A valid header records a legal profile, and HALF_WAVES for TAP v2 alone (44_framing.md R818, 10_state.md R148,
R149). -/
theorem recordHeader_profile {params : Config.Params} {h : List Byte} {fmt : Format} {fam : Family} (p : Par)
    (hv : validateHeader h = .ok (fmt, fam)) :
    profileOk (recordHeader params h fmt fam p).profile ∧
      ((recordHeader params h fmt fam p).halfWaves = true ↔ (recordHeader params h fmt fam p).profile = .tapV2) := by
  cases fmt with
  | tap =>
    refine ⟨?_, by simp [recordHeader]⟩
    simp only [recordHeader, tapProfile]
    split
    · trivial
    · split <;> trivial
  | dmp => exact ⟨validateHeader_dmp_bps hv, by simp [recordHeader]⟩

/-! ### What each write keeps -/

section
variable {params : Config.Params} {p : Par}

theorem parOk_reset (hsize : params.headerSize = 20) : ParOk params parReset where
  cur_le := Nat.le_refl _
  profile_ok := trivial
  awaiting := fun _ => ⟨by simp [parReset, hsize], rfl, rfl⟩
  streaming := by simp [parReset]
  invalid_iff := by simp [parReset]
  done_eos := nofun
  trailing_done := nofun
  half_iff := by simp [parReset]
  within_cap := fun _ _ => Nat.zero_le _
  unparsed := fun _ => ⟨rfl, rfl, rfl, rfl, rfl, rfl, rfl, rfl, rfl, rfl⟩

/-- The byte of a `PAR.BYTE` that is not `BUSY` has room behind the unconsumed ones (20_memory.md R204). -/
theorem append_within_cap (hok : ParOk params p) (b : Byte) (notFull : parBufFull params p = false) :
    ∀ c, params.parBufCap = some c → (p.buf ++ [b]).length - p.cur ≤ c := by
  intro c hc
  have hcap := hok.within_cap c hc
  have hne : c ≠ p.buf.length - p.cur := by simpa [parBufFull, hc] using notFull
  rw [List.length_append, List.length_singleton]
  omega

theorem parOk_append (hok : ParOk params p) (b : Byte) (notFull : parBufFull params p = false)
    (noHeader : p.mode = .awaitingHeader → (p.buf ++ [b]).length ≠ params.headerSize) :
    ParOk params { p with buf := p.buf ++ [b] } :=
  { hok with
    cur_le := hok.cur_le.trans (by simp)
    awaiting := fun hmode => by
      obtain ⟨hlen, hrest⟩ := hok.awaiting hmode
      have hne := noHeader hmode
      rw [List.length_append, List.length_singleton] at hne
      exact ⟨by simp; omega, hrest⟩
    within_cap := append_within_cap hok b notFull }

/-- A bad header, a bad pulse or the end of input in front of a header leaves the parser Invalid, whatever bytes came
with it (60_exceptions.md R915, R916). -/
theorem parOk_invalid (hok : ParOk params p) (hmode : p.mode ≠ .done) {buf : List Byte} {eos : Bool} {err : ParErr}
    (herr : err ≠ .none) (hlen : p.buf.length ≤ buf.length)
    (hcap : ∀ c, params.parBufCap = some c → buf.length - p.cur ≤ c) :
    ParOk params { p with buf := buf, eos := eos, err := err, mode := .invalid } :=
  { hok with
    cur_le := hok.cur_le.trans hlen
    awaiting := nofun
    streaming := by simp
    invalid_iff := iff_of_true herr rfl
    done_eos := nofun
    trailing_done := fun htrailing => absurd (hok.trailing_done htrailing) hmode
    within_cap := hcap }

/-- A valid header is consumed whole and its fields recorded (44_framing.md R818). -/
theorem parOk_recordHeader (hsize : params.headerSize = 20) (hok : ParOk params p) (hmode : p.mode = .awaitingHeader)
    {h buf : List Byte} {fmt : Format} {fam : Family} (hv : validateHeader h = .ok (fmt, fam))
    (hlen : buf.length = params.headerSize) :
    ParOk params (recordHeader params h fmt fam { p with buf := buf }) := by
  obtain ⟨hprofile, hhalf⟩ := recordHeader_profile { p with buf := buf } hv
  have herr : p.err = .none := by simpa [hmode] using hok.invalid_iff
  have htrailing : p.trailing = false := by simpa [hmode] using hok.trailing_done
  exact {
    cur_le := by simp [hlen]
    profile_ok := hprofile
    awaiting := by simp
    streaming := by simp
    invalid_iff := by simp [herr]
    done_eos := by simp
    trailing_done := by simp [htrailing]
    half_iff := hhalf
    within_cap := by simp [hlen]
    unparsed := by simp [hsize] }

/-- The end of input behind a header is only noted (44_framing.md R826). -/
theorem parOk_eos (hok : ParOk params p) (hmode : p.mode ≠ .awaitingHeader) : ParOk params { p with eos := true } :=
  { hok with awaiting := fun hawaits => absurd hawaits hmode, done_eos := fun _ => rfl }

/-- A pulse is consumed up to its end, which lies inside the buffer (44_framing.md R822). -/
theorem parOk_consume (hsize : params.headerSize = 20) (hok : ParOk params p) (hmode : p.mode = .streamingPulses)
    {cur : Nat} (hcur : p.cur ≤ cur) (hlen : cur ≤ p.buf.length) : ParOk params { p with cur := cur } := by
  have hheader := hok.streaming (.inl hmode)
  exact { hok with
    cur_le := hlen
    awaiting := by simp [hmode]
    streaming := fun _ => hheader.trans hcur
    within_cap := fun c hc => (Nat.sub_le_sub_left hcur _).trans (hok.within_cap c hc)
    unparsed := by rintro rfl; omega }

/-- The end of the stream, inside a pulse or behind the last one (44_framing.md R822, R824). -/
theorem parOk_done (hok : ParOk params p) (hmode : p.mode = .streamingPulses) (heos : p.eos = true) {trailing : Bool} :
    ParOk params { p with trailing := trailing, mode := .done } :=
  { hok with
    awaiting := nofun
    streaming := fun _ => hok.streaming (.inl hmode)
    invalid_iff := by simpa [hmode] using hok.invalid_iff
    done_eos := fun _ => heos
    trailing_done := fun _ => rfl }

end

/-! ### What each command keeps -/

section
variable {s t : State}

theorem parByte_keeps_parOk (hsize : s.params.headerSize = 20) (hok : ParOk s.params s.par) {b : Byte}
    (h : exec (.parByte b) s = .next t) : ParOk t.params t.par := by
  simp only [exec, execParByte] at h
  split at h
  · cases h; exact hok
  · split at h
    · cases h; exact hok
    · next hfull =>
      have hfull := Bool.eq_false_of_not_eq_true hfull
      split at h
      · next hheader =>
        obtain ⟨hmode, hlen⟩ := hheader
        simp only [parCheckHeader] at h
        split at h
        · next err hv =>
          cases h
          exact parOk_invalid hok (by simp [hmode]) (validateHeader_error_ne_none hv) (by simp)
            (append_within_cap hok b hfull)
        · next fmt fam hv =>
          cases h
          exact parOk_recordHeader hsize hok hmode hv hlen
      · next hheader =>
        cases h
        exact parOk_append hok b hfull (not_and.mp hheader)

theorem parNeedMore_keeps_parOk (hok : ParOk s.params s.par) (hmode : s.par.mode = .streamingPulses)
    (h : parNeedMore s = .next t) : ParOk t.params t.par := by
  cases heos : s.par.eos with
  | false => rw [parNeedMore_open heos] at h; cases h; exact hok
  | true =>
    rw [parNeedMore_ended heos] at h
    split at h
    · cases h; exact parOk_done hok hmode heos
    · cases h; exact parOk_done hok hmode heos

theorem parPullLoop_keeps_parOk {fuel : Nat} (hsize : s.params.headerSize = 20) (hok : ParOk s.params s.par)
    (hmode : s.par.mode = .streamingPulses) (h : parPullLoop fuel s = .next t) : ParOk t.params t.par := by
  induction fuel generalizing s with
  | zero => exact parNeedMore_keeps_parOk hok hmode h
  | succ fuel ih =>
    have notDone : s.par.mode ≠ .done := by simp [hmode]
    have consume : ∀ {j},
        pulseEnd (ovfDecode s.params s.par.profile s.par.buf s.par.cur s.par.eos) = some j →
        ParOk s.params { s.par with cur := j } := by
      intro j hj
      obtain ⟨hcur, hlen⟩ := pulseEnd_ovfDecode hok.profile_ok hok.cur_le hj
      exact parOk_consume hsize hok hmode hcur.le hlen
    unfold parPullLoop at h
    split at h
    · next value j hd => cases h; exact consume (by rw [hd]; rfl)
    · next j hd =>
      have hskipped := consume (j := j) (by rw [hd]; rfl)
      exact ih (s := { s with par := { s.par with cur := j } }) hsize hskipped hmode h
    · cases h; exact parOk_invalid hok notDone nofun (Nat.le_refl _) hok.within_cap
    · cases h; exact parOk_invalid hok notDone nofun (Nat.le_refl _) hok.within_cap
    · exact parNeedMore_keeps_parOk hok hmode h

theorem parPull_keeps_parOk (hsize : s.params.headerSize = 20) (hok : ParOk s.params s.par)
    (h : exec .parPull s = .next t) : ParOk t.params t.par := by
  simp only [exec, execParPull] at h
  split at h
  · cases h; exact hok
  · cases h; exact hok
  · cases h; exact hok
  · next hmode => exact parPullLoop_keeps_parOk hsize hok hmode h

theorem parEos_keeps_parOk (hok : ParOk s.params s.par) (h : exec .parEos s = .next t) : ParOk t.params t.par := by
  simp only [exec, execParEos] at h
  split at h
  · cases h; exact hok
  · split at h
    · next hmode =>
      cases h
      exact parOk_invalid hok (by simp [hmode]) nofun (Nat.le_refl _) hok.within_cap
    · next hmode => cases h; exact parOk_eos hok hmode

/-- Every command keeps PAR's invariant: five of them write PAR, no other touches it (44_framing.md R828). -/
theorem exec_keeps_parOk {i : Instr} (hsize : s.params.headerSize = 20) (hok : ParOk s.params s.par)
    (h : exec i s = .next t) : ParOk t.params t.par := by
  have untouched : touchesPar i = false → ParOk t.params t.par := by
    intro hi
    have hchange := exec_stateChange h
    rw [hchange.params, hchange.par hi]
    exact hok
  cases i with
  | parByte b => exact parByte_keeps_parOk hsize hok h
  | parPull => exact parPull_keeps_parOk hsize hok h
  | parEos => exact parEos_keeps_parOk hok h
  | parReset => cases h; exact parOk_reset hsize
  | reset => cases h; exact parOk_reset hsize
  | _ => exact untouched rfl

end

/-- Settles O59: every command keeps the invariant, a pull by the extent of a decoded pulse. -/
theorem stepKeepsParOk : Obligations.StepKeepsParOk := by
  intro s t ⟨_, _, _, hsize, _⟩ hok h
  refine (step_keeps (Inv := fun s => s.params.headerSize = 20 ∧ ParOk s.params s.par) (fun _ _ _ hs => hs) ?_
    ⟨hsize, hok⟩ h).2
  intro i s t ⟨hsize, hs⟩ hexec
  exact ⟨(exec_stateChange hexec).params ▸ hsize, exec_keeps_parOk hsize hs hexec⟩

end Sys2Proof.Proofs
end

section
/-! The four status registers bit by bit (10_state.md R114, R122, R132, R140): a status word is a sum of fields, each of
its own weight, and a field is the quotient by its weight. -/

namespace Sys2Proof.Proofs

open Sys2Proof.Machine Sys2Proof.Claims Sys2Proof.Laws

/-! ### Fields of a data word -/

/-- A flag is its bit times the weight of its place. -/
theorem flagAt_eq (i : Nat) (b : Bool) : flagAt i b = 2 ^ i * b.toNat := by
  cases b <;> simp [flagAt]

/-- A bit of a data word, read off the natural it holds. -/
theorem natWord_getLsbD {n i : Nat} {b : Bool} (hi : i < 32) (h : n / 2 ^ i % 2 = b.toNat) :
    (natWord n).getLsbD i = b := by
  rw [natWord, BitVec.getLsbD_ofNat, decide_eq_true hi, Bool.true_and, Nat.testBit_eq_decide_div_mod_eq, h]
  cases b <;> rfl

/-- A field of a data word, read off the natural it holds. -/
theorem natWord_extractLsb' {n start len k : Nat} (hlen : start + len ≤ 32)
    (h : n / 2 ^ start % 2 ^ len = k % 2 ^ len) : (natWord n).extractLsb' start len = BitVec.ofNat len k := by
  apply BitVec.eq_of_toNat_eq
  have hpow : 2 ^ 32 = 2 ^ start * 2 ^ (32 - start) := by rw [← Nat.pow_add]; congr 1; omega
  rw [natWord, BitVec.extractLsb'_toNat, BitVec.toNat_ofNat, Nat.shiftRight_eq_div_pow, hpow,
    Nat.mod_mul_right_div_self, Nat.mod_mod_of_dvd _ (Nat.pow_dvd_pow 2 (by omega)), h, BitVec.toNat_ofNat]

/-! ### ENC_STATUS -/

theorem encModeCode_le (m : EncMode) : encModeCode m ≤ 2 := by cases m <;> decide

theorem encStatusWord_fields (e : Enc) :
    (encStatusWord e).getLsbD 0 = e.armed
      ∧ (encStatusWord e).extractLsb' 1 2 = BitVec.ofNat 2 (encModeCode e.mode)
      ∧ (encStatusWord e).getLsbD 3 = (e.dir == .down) ∧ (encStatusWord e).getLsbD 4 = e.fCntOvf
      ∧ (encStatusWord e).extractLsb' 5 27 = 0#27 := by
  have hmode := encModeCode_le e.mode
  have harmed := e.armed.toNat_le
  have hdir := (e.dir == .down).toNat_le
  have hovf := e.fCntOvf.toNat_le
  simp only [encStatusWord, flagAt_eq]
  exact ⟨natWord_getLsbD (by decide) (by omega), natWord_extractLsb' (by decide) (by omega),
    natWord_getLsbD (by decide) (by omega), natWord_getLsbD (by decide) (by omega),
    natWord_extractLsb' (by decide) (by omega)⟩

/-- Settles O14: the fields of the word by their weights, and the fault bit through every change of ENC. -/
theorem encStatusFields : Obligations.EncStatusFields := by
  refine ⟨fun s => ?_, rfl, fun i s t h hi hf => encChange_fCntOvf (exec_stateChange h).enc hi hf⟩
  obtain ⟨harmed, hmode, hdir, hovf, hzero⟩ := encStatusWord_fields s.enc
  exact ⟨encStatusWord s.enc, rfl, harmed, hmode.trans (by cases s.enc.mode <;> rfl), hdir, hovf, hzero⟩

/-! ### DEC_STATUS -/

theorem decStatusWord_fields (d : Dec) :
    (decStatusWord d).getLsbD 0 = decide (0 < d.rem) ∧ (decStatusWord d).getLsbD 1 = (d.mode == .faulted)
      ∧ (decStatusWord d).getLsbD 2 = d.fZero ∧ (decStatusWord d).getLsbD 3 = (d.nextSign == .neg)
      ∧ (decStatusWord d).getLsbD 4 = d.curHalf ∧ (decStatusWord d).extractLsb' 5 27 = 0#27 := by
  have hactive := (decide (0 < d.rem)).toNat_le
  have hmode := (d.mode == .faulted).toNat_le
  have hzero := d.fZero.toNat_le
  have hnext := (d.nextSign == .neg).toNat_le
  have hhalf := d.curHalf.toNat_le
  simp only [decStatusWord, flagAt_eq]
  exact ⟨natWord_getLsbD (by decide) (by omega), natWord_getLsbD (by decide) (by omega),
    natWord_getLsbD (by decide) (by omega), natWord_getLsbD (by decide) (by omega),
    natWord_getLsbD (by decide) (by omega), natWord_extractLsb' (by decide) (by omega)⟩

/-- Settles O15: the fields of the word by their weights, and the fault bit through every change of DEC. -/
theorem decStatusFields : Obligations.DecStatusFields :=
  ⟨fun s => ⟨decStatusWord s.dec, rfl, decStatusWord_fields s.dec⟩, rfl,
    fun _ _ _ h hi hf => decChange_fZero (exec_stateChange h).dec hi hf⟩

/-! ### GEN_STATUS -/

theorem genModeCode_le (m : GenMode) : genModeCode m ≤ 3 := by cases m <;> decide

theorem profileCode_le (p : Profile) : profileCode p ≤ 3 := by cases p <;> simp [profileCode]

theorem genStatusWord_fields (g : Gen) :
    (genStatusWord g).extractLsb' 0 2 = BitVec.ofNat 2 (genModeCode g.mode) ∧ (genStatusWord g).getLsbD 2 = g.lossy
      ∧ (genStatusWord g).getLsbD 3 = g.fUnsupported ∧ (genStatusWord g).getLsbD 4 = g.fZero
      ∧ (genStatusWord g).getLsbD 5 = g.fLength
      ∧ (genStatusWord g).extractLsb' 6 2 = BitVec.ofNat 2 (profileCode g.profile)
      ∧ (genStatusWord g).extractLsb' 8 8 = g.version ∧ (genStatusWord g).extractLsb' 16 16 = 0#16 := by
  have hmode := genModeCode_le g.mode
  have hlossy := g.lossy.toNat_le
  have hunsupported := g.fUnsupported.toNat_le
  have hzero := g.fZero.toNat_le
  have hlength := g.fLength.toNat_le
  have hprofile := profileCode_le g.profile
  have hversion := g.version.isLt
  simp only [genStatusWord, flagAt_eq]
  exact ⟨natWord_extractLsb' (by decide) (by omega), natWord_getLsbD (by decide) (by omega),
    natWord_getLsbD (by decide) (by omega), natWord_getLsbD (by decide) (by omega),
    natWord_getLsbD (by decide) (by omega), natWord_extractLsb' (by decide) (by omega),
    (natWord_extractLsb' (k := g.version.toNat) (by decide) (by omega)).trans (by simp),
    natWord_extractLsb' (by decide) (by omega)⟩

/-- Settles O16: the fields of the word by their weights, and the sticky bits through every change of GEN. -/
theorem genStatusFields : Obligations.GenStatusFields := by
  refine ⟨fun s => ?_, rfl, fun i s t h hi => ?_⟩
  · obtain ⟨hmode, hlossy, hunsupported, hzero, hlength, hprofile, hrest⟩ := genStatusWord_fields s.gen
    exact ⟨genStatusWord s.gen, rfl, hmode.trans (by cases s.gen.mode <;> rfl), hlossy, hunsupported, hzero, hlength,
      hprofile.trans (by cases s.gen.profile <;> rfl), hrest⟩
  · have hchange := (exec_stateChange h).gen
    obtain ⟨hunsupported, hzero, hlength⟩ := genChange_faultBits hchange hi
    exact ⟨hunsupported, hzero, hlength, genChange_lossy hchange hi⟩

/-! ### PAR_STATUS -/

theorem parModeCode_le (m : ParMode) : parModeCode m ≤ 3 := by cases m <;> decide

theorem parErrCode_le (e : ParErr) : parErrCode e ≤ 8 := by cases e <;> decide

theorem parStatusWord_fields (p : Par) :
    (parStatusWord p).extractLsb' 0 2 = BitVec.ofNat 2 (parModeCode p.mode) ∧ (parStatusWord p).extractLsb' 2 2 = 0#2
      ∧ (parStatusWord p).extractLsb' 4 4 = BitVec.ofNat 4 (parErrCode p.err)
      ∧ (parStatusWord p).getLsbD 8 = p.eos ∧ (parStatusWord p).getLsbD 9 = p.trailing
      ∧ (parStatusWord p).getLsbD 10 = p.halfWaves ∧ (parStatusWord p).getLsbD 11 = (p.format == .dmp)
      ∧ (parStatusWord p).getLsbD 12 = (p.family == .c16) ∧ (parStatusWord p).extractLsb' 13 19 = 0#19 := by
  have hmode := parModeCode_le p.mode
  have herr := parErrCode_le p.err
  have heos := p.eos.toNat_le
  have htrailing := p.trailing.toNat_le
  have hhalf := p.halfWaves.toNat_le
  have hformat := (p.format == .dmp).toNat_le
  have hfamily := (p.family == .c16).toNat_le
  simp only [parStatusWord, flagAt_eq]
  exact ⟨natWord_extractLsb' (by decide) (by omega), natWord_extractLsb' (by decide) (by omega),
    natWord_extractLsb' (by decide) (by omega), natWord_getLsbD (by decide) (by omega),
    natWord_getLsbD (by decide) (by omega), natWord_getLsbD (by decide) (by omega),
    natWord_getLsbD (by decide) (by omega), natWord_getLsbD (by decide) (by omega),
    natWord_extractLsb' (by decide) (by omega)⟩

/-- Bits 12:10 hold the parsed fields HALF_WAVES, FORMAT and FAMILY, which are 0 before a header (10_state.md R140). -/
theorem parStatusWord_unparsed {p : Par} (hhalf : p.halfWaves = false) (hformat : p.format = .tap)
    (hfamily : p.family = .c64) : (parStatusWord p).extractLsb' 10 3 = 0#3 := by
  have hmode := parModeCode_le p.mode
  have herr := parErrCode_le p.err
  have heos := p.eos.toNat_le
  have htrailing := p.trailing.toNat_le
  have hnoDmp : (p.format == .dmp).toNat = 0 := by rw [hformat]; rfl
  have hnoC16 : (p.family == .c16).toNat = 0 := by rw [hfamily]; rfl
  simp only [parStatusWord, flagAt_eq, hhalf, hnoDmp, hnoC16, Bool.toNat_false]
  exact natWord_extractLsb' (by decide) (by omega)

/-- Settles O17: the fields of the word by their weights, and the invariant for the unparsed ones. -/
theorem parStatusFields : Obligations.ParStatusFields := by
  refine ⟨fun s => ?_, rfl⟩
  obtain ⟨hmode, hreserved, herr, heos, htrailing, hhalf, hformat, hfamily, hzero⟩ := parStatusWord_fields s.par
  refine ⟨parStatusWord s.par, rfl, hmode.trans (by cases s.par.mode <;> rfl), hreserved,
    herr.trans (by cases s.par.err <;> rfl), heos, htrailing, hhalf, hformat, hfamily, hzero, fun hok hcur => ?_⟩
  obtain ⟨-, -, -, -, -, -, -, hhalf, hformat, hfamily⟩ := hok.unparsed hcur
  exact parStatusWord_unparsed hhalf hformat hfamily

end Sys2Proof.Proofs
end

section
/-! The two byte sequences of the block (20_memory.md R202, R205, R206): which commands leave them as they are, and that
the others, but the resets and the two header writes of GEN, only add bytes at the end. -/

namespace Sys2Proof.Proofs

open Sys2Proof.Machine Sys2Proof.Claims Sys2Proof.Laws

/-- Bytes put behind a sequence leave every byte it had. -/
theorem readByte_of_isPrefix {bytes bytes' : List Byte} {a : Nat} (h : bytes <+: bytes') (ha : a < bytes.length) :
    readByte bytes' a = readByte bytes a := by
  obtain ⟨added, rfl⟩ := h
  exact List.getElem?_append_left ha

/-! ### The input buffer -/

/-- No fault drops a byte of the input buffer (60_exceptions.md R926). -/
@[simp] theorem faultEffect_parBuf (f : UnitFault) (s : State) : (faultEffect f s).par.buf = s.par.buf := by
  cases f <;> rfl

section
variable {s t : State}

theorem respond_parBuf {st : Status} {words : List Word} {buf : List Byte} (h : respond st words s = .next t)
    (hbuf : s.par.buf = buf) : t.par.buf = buf := by
  cases h
  exact hbuf

theorem raise_parBuf {f : UnitFault} {buf : List Byte} (h : raise f s = .next t) (hbuf : s.par.buf = buf) :
    t.par.buf = buf :=
  respond_parBuf h ((faultEffect_parBuf f s).trans hbuf)

/-- The header check writes the header's fields or the fault, and reads the buffer (44_framing.md R805, R818). -/
theorem parCheckHeader_buf (h : parCheckHeader s = .next t) : t.par.buf = s.par.buf := by
  simp only [parCheckHeader] at h
  split at h
  · exact raise_parBuf h rfl
  · next fmt fam hv => exact respond_parBuf h (recordHeader_buf s.params _ fmt fam s.par)

/-- `PAR.BYTE` appends its byte, or is refused and appends nothing (20_memory.md R202, R204). -/
theorem parByte_extends_buf {b : Byte} (h : exec (.parByte b) s = .next t) : s.par.buf <+: t.par.buf := by
  have refused : ∀ {st}, refuse st s = .next t → s.par.buf <+: t.par.buf := fun h => by
    rw [respond_parBuf h rfl]
  have appended : t.par.buf = s.par.buf ++ [b] → s.par.buf <+: t.par.buf := fun h => ⟨[b], h.symm⟩
  simp only [exec, execParByte] at h
  split at h
  · exact refused h
  · split at h
    · exact refused h
    · split at h
      · exact appended (parCheckHeader_buf h :)
      · exact appended (respond_parBuf h rfl)

theorem parNeedMore_buf (h : parNeedMore s = .next t) : t.par.buf = s.par.buf := by
  simp only [parNeedMore] at h
  split at h
  · exact respond_parBuf h rfl
  · split at h
    · exact respond_parBuf h rfl
    · exact raise_parBuf h rfl

/-- Consuming a pulse moves the offset, not the bytes (20_memory.md R202). -/
theorem parPullLoop_buf {fuel : Nat} (h : parPullLoop fuel s = .next t) : t.par.buf = s.par.buf := by
  induction fuel generalizing s with
  | zero => exact parNeedMore_buf h
  | succ fuel ih =>
    unfold parPullLoop at h
    split at h
    · exact respond_parBuf h rfl
    · exact (ih h :)
    · exact raise_parBuf h rfl
    · exact raise_parBuf h rfl
    · exact parNeedMore_buf h

theorem parPull_buf (h : exec .parPull s = .next t) : t.par.buf = s.par.buf := by
  simp only [exec, execParPull] at h
  split at h
  · exact respond_parBuf h rfl
  · exact respond_parBuf h rfl
  · exact respond_parBuf h rfl
  · exact parPullLoop_buf h

theorem parEos_buf (h : exec .parEos s = .next t) : t.par.buf = s.par.buf := by
  simp only [exec, execParEos] at h
  split at h
  · exact respond_parBuf h rfl
  · split at h
    · exact raise_parBuf h rfl
    · exact respond_parBuf h rfl

/-- Every command but the two resets of PAR leaves the bytes of the input buffer at the head of it (20_memory.md
R202). -/
theorem exec_extends_parBuf {i : Instr} (h : exec i s = .next t) (hunit : i ≠ .parReset) (hblock : i ≠ .reset) :
    s.par.buf <+: t.par.buf := by
  have unchanged : t.par.buf = s.par.buf → s.par.buf <+: t.par.buf := fun h => by rw [h]
  have untouched : touchesPar i = false → s.par.buf <+: t.par.buf := fun hi =>
    unchanged (by rw [(exec_stateChange h).par hi])
  cases i with
  | parByte b => exact parByte_extends_buf h
  | parPull => exact unchanged (parPull_buf h)
  | parEos => exact unchanged (parEos_buf h)
  | parReset => exact absurd rfl hunit
  | reset => exact absurd rfl hblock
  | _ => exact untouched rfl

end

/-- Settles O47: every command but the two resets of PAR extends the buffer at its end. -/
theorem inputBufferIsAppendOnly : Obligations.InputBufferIsAppendOnly :=
  fun _ _ _ h hunit hblock _ ha => readByte_of_isPrefix (exec_extends_parBuf h hunit hblock) ha

/-! ### The sink -/

section
variable {params : Config.Params} {g g' : Gen} {i : Instr}

/-- Of the commands that write the sink, `GEN.PULSE` alone writes at its end (20_memory.md R206). -/
theorem genChange_sink (h : GenChange params g i g') (hi : i ∉ [Instr.genStart, .genFinish, .genReset, .reset]) :
    g'.sink = g.sink ∨ ∃ p out, i = .genPulse p ∧ g'.sink = g.sink ++ out := by
  cases h with
  | started => simp at hi
  | wrote p out => exact .inr ⟨p, out, rfl, rfl⟩
  | finishedTap => simp at hi
  | unitReset => simp at hi
  | blockReset => simp at hi
  | _ => exact .inl rfl

theorem genChange_extends_sink (h : GenChange params g i g')
    (hi : i ∉ [Instr.genStart, .genFinish, .genReset, .reset]) : g.sink <+: g'.sink := by
  obtain hkept | ⟨p, out, -, happended⟩ := genChange_sink h hi
  · rw [hkept]
  · exact ⟨out, happended.symm⟩

theorem genChange_sink_eq (h : GenChange params g i g') (hi : i ∉ [Instr.genStart, .genFinish, .genReset, .reset])
    (hpulse : ∀ p, i ≠ .genPulse p) : g'.sink = g.sink := by
  obtain hkept | ⟨p, -, hp, -⟩ := genChange_sink h hi
  · exact hkept
  · exact absurd hp (hpulse p)

end

/-- Settles O54: a pulse goes behind the sink there was, and the commands that write no sink leave it whole. -/
theorem sinkBytesOutsideAWriteStay : Obligations.SinkBytesOutsideAWriteStay := by
  intro i s t h
  have hchange := (exec_stateChange h).gen
  refine ⟨?_, fun hi hpulse a => ?_⟩
  · rintro ⟨p, rfl⟩ a ha
    exact readByte_of_isPrefix (genChange_extends_sink hchange (by simp)) ha
  · rw [sinkByte, sinkByte, genChange_sink_eq hchange hi hpulse]

end Sys2Proof.Proofs
end

section
/-! The command encoding (30_encoding.md sections 1 and 2): the decoder reads every command's word back and accepts no
other word, and every command's word is well-formed, so an ill-formed word is no command. -/

namespace Sys2Proof.Proofs

open Sys2Proof.Machine Sys2Proof.Laws

/-! ### The decoder's check of the unused fields -/

/-- A command is accepted exactly when its unused fields are 0 (30_encoding.md R304). -/
theorem checkFields_eq_ok {op : Byte} {unusedZero : Bool} {i j : Instr} :
    checkFields op unusedZero i = .ok j ↔ unusedZero = true ∧ i = j := by
  cases unusedZero <;> simp [checkFields]

/-- The table's `OP` number as the byte the encoder writes. -/
theorem op_eq_ofNat {op : Byte} {n : Nat} (hop : op.toNat = n) : op = BitVec.ofNat 8 n := by
  rw [← hop, BitVec.ofNat_toNat, BitVec.setWidth_eq]

section
variable {op aux : Byte} {data : Word} {i j : Instr} {n : Nat}

/-- A command that uses neither field is decoded from its own word only (30_encoding.md R304). -/
theorem encode_of_decodePlain (hi : encode i = assemble (BitVec.ofNat 8 n) 0#8 0#32) (hop : op.toNat = n)
    (h : decodePlain op aux data i = .ok j) : encode j = assemble op aux data := by
  obtain ⟨hzero, rfl⟩ := checkFields_eq_ok.mp h
  obtain ⟨rfl, rfl⟩ : aux = 0#8 ∧ data = 0#32 := by simpa using hzero
  rw [hi, op_eq_ofNat hop]

/-- A command that uses `DATA` only is decoded from its own word only (30_encoding.md R304). -/
theorem encode_of_decodeData (hi : encode i = assemble (BitVec.ofNat 8 n) 0#8 data) (hop : op.toNat = n)
    (h : decodeData op aux i = .ok j) : encode j = assemble op aux data := by
  obtain ⟨hzero, rfl⟩ := checkFields_eq_ok.mp h
  obtain rfl : aux = 0#8 := by simpa using hzero
  rw [hi, op_eq_ofNat hop]

end

/-! ### The byte of `PAR.BYTE` in its `DATA` field -/

theorem lowByte_setWidth (b : Byte) : (b.setWidth 32).extractLsb' 0 8 = b := by
  have hb := b.isLt
  apply BitVec.eq_of_toNat_eq
  simp [BitVec.extractLsb'_toNat]
  omega

theorem highBits_setWidth (b : Byte) : (b.setWidth 32).extractLsb' 8 24 = 0#24 := by
  have hb := b.isLt
  apply BitVec.eq_of_toNat_eq
  simp [BitVec.extractLsb'_toNat, Nat.shiftRight_eq_div_pow]
  omega

theorem setWidth_lowByte {data : Word} (h : data.extractLsb' 8 24 = 0#24) :
    (data.extractLsb' 0 8).setWidth 32 = data := by
  have hdata := data.isLt
  have hhigh := congrArg BitVec.toNat h
  apply BitVec.eq_of_toNat_eq
  simp [BitVec.extractLsb'_toNat, Nat.shiftRight_eq_div_pow] at hhigh ⊢
  omega

/-! ### Decode and encode -/

/-- The word of a command is decoded to it, every operand whole. -/
theorem decode_encode (i : Instr) : decode (encode i) = .ok i := by
  cases i with
  | parByte b => simp [encode, decode_assemble, decodeFields, checkFields, highBits_setWidth, lowByte_setWidth]
  | _ => exact decode_assemble _ _ _

/-- Fields that are decoded to a command are the command's own: each `OP` of the table selects one command, and the
check of the unused fields leaves no other value for them. Case `h_n` is row `n` of `decodeFields`: `CFG.WR` (2),
`CFG.RD` (3) and `PAR.BYTE` (11) check their fields in their own way, an unassigned `OP` (19) has no command. -/
theorem encode_of_decodeFields {op aux : Byte} {data : Word} {i : Instr} (h : decodeFields op aux data = .ok i) :
    encode i = assemble op aux data := by
  unfold decodeFields at h
  split at h
  case h_2 hop =>
    cases h
    rw [op_eq_ofNat hop, encode]
  case h_3 hop =>
    obtain ⟨hzero, rfl⟩ := checkFields_eq_ok.mp h
    obtain rfl : data = 0#32 := by simpa using hzero
    rw [op_eq_ofNat hop, encode]
  case h_11 hop =>
    obtain ⟨hzero, rfl⟩ := checkFields_eq_ok.mp h
    obtain ⟨rfl, hhigh⟩ : aux = 0#8 ∧ data.extractLsb' 8 24 = 0#24 := by simpa using hzero
    rw [op_eq_ofNat hop, encode, setWidth_lowByte hhigh]
  case h_5 hop | h_8 hop | h_9 hop | h_16 hop => exact encode_of_decodeData rfl hop h
  case h_19 => cases h
  all_goals next hop => exact encode_of_decodePlain rfl hop h

/-- A word that is decoded to a command is the command's word. -/
theorem encode_of_decode {w : CommandWord} {i : Instr} (h : decode w = .ok i) : encode i = w :=
  (encode_of_decodeFields h).trans (assemble_fields w)

/-- Settles O1: a command's word is decoded to it, and only its word. -/
theorem decodeInvertsEncode : Obligations.DecodeInvertsEncode := by
  intro i w
  constructor
  · intro hdecode
    exact encode_of_decode hdecode
  · rintro rfl
    exact decode_encode i

/-! ### Ill-formed words -/

/-- The numbers of the two operand fields are 0 outside the part a command uses (30_encoding.md R304). -/
def fieldsZeroOutside (used : UsedFields) (aux data : Nat) : Bool :=
  match used with
  | .neither => aux == 0 && data == 0
  | .aux => data == 0
  | .data => aux == 0
  | .dataByte => aux == 0 && data / 2 ^ 8 == 0
  | .auxAndData => true

/-- The word of an assigned `OP` is well-formed exactly when its other two fields are 0 where they are not used. -/
theorem commandWellFormed_assemble {op : Byte} {used : UsedFields} (hop : usedFields op.toNat = some used) (aux : Byte)
    (data : Word) :
    commandWellFormed (assemble op aux data) = fieldsZeroOutside used aux.toNat data.toNat := by
  have hopField := opField_toNat (assemble op aux data)
  have hauxField := auxField_toNat (assemble op aux data)
  have hdataField := dataField_toNat (assemble op aux data)
  rw [opField_assemble] at hopField
  rw [auxField_assemble] at hauxField
  rw [dataField_assemble] at hdataField
  rw [commandWellFormed, opAssigned, unusedFieldsZero, ← hopField, ← hauxField, ← hdataField, hop]
  cases used <;> rfl

theorem commandWellFormed_encode (i : Instr) : commandWellFormed (encode i) = true := by
  cases i with
  | cfgWr reg value => exact commandWellFormed_assemble (used := .auxAndData) rfl _ _
  | cfgRd reg => exact commandWellFormed_assemble (used := .aux) rfl _ _
  | parByte b =>
    have hbyte : (b.setWidth 32).toNat / 2 ^ 8 = 0 := by
      have hb := b.isLt
      rw [BitVec.toNat_setWidth_of_le (by omega)]
      omega
    rw [encode, commandWellFormed_assemble (used := .dataByte) rfl, fieldsZeroOutside, hbyte]
    rfl
  | encSample _ | decPulse _ | decPull _ | genPulse _ => exact commandWellFormed_assemble (used := .data) rfl _ _
  | _ => exact commandWellFormed_assemble (used := .neither) rfl _ _

theorem decode_of_illFormed {w : CommandWord} (hw : commandWellFormed w = false) : ∃ e, decode w = .error e := by
  cases hdecode : decode w with
  | error e => exact ⟨e, rfl⟩
  | ok i =>
    rw [← encode_of_decode hdecode, commandWellFormed_encode] at hw
    cases hw

/-- Settles O2: an ill-formed word is no command's word, so it has no command. -/
theorem illegalWordsAreRefused : Obligations.IllegalWordsAreRefused := by
  intro s w rest hport hw
  obtain ⟨e, hdecode⟩ := decode_of_illFormed hw
  exact step_of_decode_error hport hdecode

/-! ### Words written out -/

/-- Settles O4: the decoder evaluated on each word. -/
theorem tableWordsDecode : Obligations.TableWordsDecode := by
  unfold Obligations.TableWordsDecode
  decide

end Sys2Proof.Proofs
end

section
/-! TAP v0 fields (30_encoding.md R334, 43_overflow_codec.md R725): a nonzero byte alone, and a run of zero bytes that a
nonzero byte or the end of the stream closes. -/

namespace Sys2Proof.Proofs

open Sys2Proof.Machine Sys2Proof.Claims Sys2Proof.Laws

theorem pulseMax_eq {params : Config.Params} (hspec : SpecConstants params) :
    Config.pulseMax params = 2 ^ 32 - 1 := by
  obtain ⟨-, -, hwidth, -⟩ := hspec
  rw [Config.pulseMax, hwidth]

theorem ovfFinal_eq_judged {params : Config.Params} (hspec : SpecConstants params) (total next : Nat) :
    ovfFinal params total next = judged total next := by
  rw [ovfFinal, judged, pulseMax_eq hspec]

/-- The bytes before the offset play no part (43_overflow_codec.md R720). -/
theorem ovfDecode_tapV0_append (params : Config.Params) (before bytes : List Byte) (eos : Bool) :
    ovfDecode params .tapV0 (before ++ bytes) before.length eos = decodeTapV0 params bytes before.length eos := by
  rw [ovfDecode, List.drop_left]

theorem decodeTapV0_nonzero {params : Config.Params} {q : Byte} (hq : q ≠ 0#8) (after : List Byte) (next : Nat)
    (eos : Bool) :
    decodeTapV0 params (q :: after) next eos = ovfFinal params (params.tapScale * q.toNat) (next + 1) := by
  simp [decodeTapV0, hq]

/-- A nonzero byte is a pulse of 8 times its value, which is in range (30_encoding.md R334). -/
theorem decodeTapV0_nonzero_pulse {params : Config.Params} (hspec : SpecConstants params) {q : Byte} (hq : q ≠ 0#8)
    (after : List Byte) (next : Nat) (eos : Bool) :
    decodeTapV0 params (q :: after) next eos = .pulse (8 * q.toNat) (next + 1) := by
  have hmax := pulseMax_eq hspec
  obtain ⟨-, -, -, -, hscale, -⟩ := hspec
  have hpos : q.toNat ≠ 0 := fun h => hq (BitVec.eq_of_toNat_eq h)
  have hlt := q.isLt
  rw [decodeTapV0_nonzero hq, hscale]
  exact ovfFinal_of_range (by omega) (by omega)

/-- A run of `k` zero bytes: too long whatever follows, else closed by the byte behind it or by the end of the stream
(43_overflow_codec.md R725). -/
theorem decodeTapV0_zeroRun (params : Config.Params) {k : Nat} (hk : 1 ≤ k) {rest : List Byte}
    (hrest : zeroRun rest = 0) (next : Nat) (eos : Bool) :
    decodeTapV0 params (List.replicate k 0#8 ++ rest) next eos =
      if Config.pulseMax params < k * params.v0ZeroValue then .invalid .pulseOverflow
      else if rest = [] ∧ eos = false then .needMore
      else ovfFinal params (k * params.v0ZeroValue) (next + k) := by
  have hrun : zeroRun (List.replicate k 0#8 ++ rest) = k := by rw [zeroRun_replicate, hrest, Nat.add_zero]
  have hwhole : k = (List.replicate k 0#8 ++ rest).length ↔ rest = [] := by simp
  obtain ⟨n, rfl⟩ : ∃ n, k = n + 1 := ⟨k - 1, by omega⟩
  rw [List.replicate_succ, List.cons_append] at hrun hwhole ⊢
  rw [decodeTapV0, hrun, if_neg (not_not.mpr rfl)]
  simp only [hwhole]

/-- A closed run is one pulse of its total (30_encoding.md R334). -/
theorem decodeTapV0_closedRun {params : Config.Params} (hspec : SpecConstants params) {k : Nat} (hk : 1 ≤ k)
    {rest : List Byte} (hrest : zeroRun rest = 0) (next : Nat) {eos : Bool} (hclosed : rest ≠ [] ∨ eos = true) :
    decodeTapV0 params (List.replicate k 0#8 ++ rest) next eos = judged (k * params.v0ZeroValue) (next + k) := by
  have hopen : ¬ (rest = [] ∧ eos = false) := by
    rintro ⟨rfl, rfl⟩
    simp at hclosed
  rw [decodeTapV0_zeroRun params hk hrest, if_neg hopen, ovfFinal_eq_judged hspec, pulseMax_eq hspec]
  split
  · next hover => rw [judged, if_pos hover]
  · rfl

/-- Settles O37: a nonzero byte, and a zero run closed by a byte, closed by the end of the stream, and not closed. -/
theorem tapV0ZeroRunIsOnePulse : Obligations.TapV0ZeroRunIsOnePulse := by
  intro params k before after q eos hspec hq
  refine ⟨?_, fun hk => ⟨?_, ?_, ?_⟩⟩
  · rw [ovfDecode_tapV0_append, decodeTapV0_nonzero_pulse hspec hq]
  · have hrest : zeroRun (q :: after) = 0 := if_neg hq
    rw [List.append_assoc, ovfDecode_tapV0_append]
    exact decodeTapV0_closedRun hspec hk hrest _ (.inl (List.cons_ne_nil q after))
  · rw [ovfDecode_tapV0_append, ← List.append_nil (List.replicate k _)]
    exact decodeTapV0_closedRun hspec hk rfl _ (.inr rfl)
  · rw [ovfDecode_tapV0_append, ← List.append_nil (List.replicate k _), decodeTapV0_zeroRun params hk rfl,
      pulseMax_eq hspec]
    simp only [and_self, if_true]

end Sys2Proof.Proofs
end

section
/-! The block commands and the units a command may change (40_control.md): the port that no command reaches, the unit of
a register by its number, and NOP, CFG.RD, RESET and the unit resets as whole next states. -/

namespace Sys2Proof.Proofs

open Sys2Proof.Machine Sys2Proof.Claims Sys2Proof.Laws

/-! ### The port -/

section
variable {s t : State}

/-- A command that ends in a response leaves the port of the state it responds from. -/
theorem respond_port {st : Status} {words : List Word} {port : List CommandWord} (h : respond st words s = .next t)
    (hport : s.port = port) : t.port = port := by
  cases h
  exact hport

theorem raise_port {f : UnitFault} {port : List CommandWord} (h : raise f s = .next t) (hport : s.port = port) :
    t.port = port :=
  respond_port h ((faultEffect_port f s).trans hport)

theorem cfgWr_port {reg : Byte} {v : Word} (h : exec (.cfgWr reg v) s = .next t) : t.port = s.port := by
  simp only [exec, execCfgWr] at h
  split at h
  · next s' hw =>
    obtain ⟨r, -, hw⟩ := Option.bind_eq_some_iff.mp hw
    obtain ⟨-, hport, -⟩ := writeReg_frame hw
    exact respond_port h hport
  · exact respond_port h rfl

theorem encCountSample_port {words : List Word} (h : encCountSample words s = .next t) : t.port = s.port := by
  simp only [encCountSample] at h
  split at h
  · exact raise_port h rfl
  · exact respond_port h rfl

theorem parCheckHeader_port (h : parCheckHeader s = .next t) : t.port = s.port := by
  simp only [parCheckHeader] at h
  split at h
  · exact raise_port h rfl
  · exact respond_port h rfl

theorem parNeedMore_port (h : parNeedMore s = .next t) : t.port = s.port := by
  simp only [parNeedMore] at h
  split at h
  · exact respond_port h rfl
  · split at h
    · exact respond_port h rfl
    · exact raise_port h rfl

theorem parPullLoop_port {fuel : Nat} (h : parPullLoop fuel s = .next t) : t.port = s.port := by
  induction fuel generalizing s with
  | zero => exact parNeedMore_port h
  | succ fuel ih =>
    unfold parPullLoop at h
    split at h
    · exact respond_port h rfl
    · exact (ih h :)
    · exact raise_port h rfl
    · exact raise_port h rfl
    · exact parNeedMore_port h

/-- No command reaches the words behind it: only a step takes a word off the port (notes/assumptions/1.md). Where a
command is not cut into helpers, each of its branches responds from, or raises in, a state with the port it began
with. -/
theorem exec_port {i : Instr} (h : exec i s = .next t) : t.port = s.port := by
  cases i with
  | nop | reset | encReset | decReset | parReset | genReset => exact respond_port h rfl
  | cfgWr reg v => exact cfgWr_port h
  | encSample x =>
    simp only [exec, execEncSample] at h
    split at h
    · exact respond_port h rfl
    · split at h
      · exact (encCountSample_port h :)
      · exact (encCountSample_port h :)
  | parByte b =>
    simp only [exec, execParByte] at h
    split at h
    · exact respond_port h rfl
    · split at h
      · exact respond_port h rfl
      · split at h
        · exact (parCheckHeader_port h :)
        · exact respond_port h rfl
  | parPull =>
    simp only [exec, execParPull] at h
    split at h
    · exact respond_port h rfl
    · exact respond_port h rfl
    · exact respond_port h rfl
    · exact parPullLoop_port h
  | cfgRd _ | encFlush | decPulse _ | decPull _ | parEos | genStart | genPulse _ | genFinish =>
    simp only [exec, execCfgRd, execEncFlush, execDecPulse, execDecPull, execParEos, execGenStart, execGenPulse,
      execGenFinish] at h
    repeat' split at h
    all_goals exact respond_port h rfl

end

/-! ### The unit a command may change -/

/-- A write changes no unit but the one the high digit of the register's number names (10_state.md R106,
40_control.md R402). -/
theorem writeReg_numberUnit {r : Reg} {v : Word} {s t : State} (h : writeReg r v s = some t) :
    (numberUnit (regNumber r) ≠ 1 → t.enc = s.enc) ∧ (numberUnit (regNumber r) ≠ 2 → t.dec = s.dec)
      ∧ (numberUnit (regNumber r) ≠ 3 → t.gen = s.gen) := by
  cases r with
  | encCtrl | encSens | encMinDur | encThresh => cases h; exact ⟨absurd rfl, fun _ => rfl, fun _ => rfl⟩
  | decCtrl | decVolume => cases h; exact ⟨fun _ => rfl, absurd rfl, fun _ => rfl⟩
  | genCfg | genRate => cases h; exact ⟨fun _ => rfl, fun _ => rfl, absurd rfl⟩
  | _ => cases h

/-- `CFG.WR` changes no unit but the one its number names; a number of no writable register changes none
(60_exceptions.md R903). -/
theorem cfgWr_numberUnit {reg : Byte} {v : Word} {s t : State} (h : exec (.cfgWr reg v) s = .next t) :
    (numberUnit reg ≠ 1 → t.enc = s.enc) ∧ (numberUnit reg ≠ 2 → t.dec = s.dec)
      ∧ (numberUnit reg ≠ 3 → t.gen = s.gen) := by
  simp only [exec, execCfgWr] at h
  split at h
  · next s' hw =>
    obtain ⟨r, hreg, hwrite⟩ := Option.bind_eq_some_iff.mp hw
    obtain rfl := regOfNumber_some hreg
    cases h
    exact (writeReg_numberUnit hwrite :)
  · cases h
    exact ⟨fun _ => rfl, fun _ => rfl, fun _ => rfl⟩

section
variable {params : Config.Params} {i : Instr} (notWrite : ∀ reg v, i ≠ .cfgWr reg v)
include notWrite

theorem encChange_untouched {e e' : Enc} (hi : touchesEnc i = false) (h : EncChange params e i e') : e' = e := by
  cases h with
  | kept => rfl
  | ctrl reg v | sens reg v | minDur reg v | thresh reg v => exact absurd rfl (notWrite reg v)
  | counted | overflowed | flushed | unitReset | blockReset => cases hi

theorem decChange_untouched {d d' : Dec} (hi : touchesDec i = false) (h : DecChange params d i d') : d' = d := by
  cases h with
  | kept => rfl
  | ctrl reg v | volume reg v => exact absurd rfl (notWrite reg v)
  | zeroPulse | started | pulled | unitReset | blockReset => cases hi

theorem genChange_untouched {g g' : Gen} (hi : touchesGen i = false) (h : GenChange params g i g') : g' = g := by
  cases h with
  | kept => rfl
  | cfg reg v | rate reg v => exact absurd rfl (notWrite reg v)
  | noRoom _ writes => obtain rfl | ⟨p, rfl⟩ := writes <;> cases hi
  | unsupported | zeroPulse | started | wrote | finishedTap | finishedDmp | unitReset | blockReset => cases hi

end

/-- Only its own commands, `RESET` and a write of one of its registers reach ENC, DEC or GEN (40_control.md R402, R405,
R406). -/
theorem exec_untouched {i : Instr} {s t : State} (h : exec i s = .next t) :
    (touchesEnc i = false → t.enc = s.enc) ∧ (touchesDec i = false → t.dec = s.dec)
      ∧ (touchesGen i = false → t.gen = s.gen) := by
  by_cases hwrite : ∃ reg v, i = .cfgWr reg v
  · obtain ⟨reg, v, rfl⟩ := hwrite
    obtain ⟨henc, hdec, hgen⟩ := cfgWr_numberUnit h
    exact ⟨fun hi => henc (beq_eq_false_iff_ne.mp hi), fun hi => hdec (beq_eq_false_iff_ne.mp hi),
      fun hi => hgen (beq_eq_false_iff_ne.mp hi)⟩
  · have notWrite : ∀ reg v, i ≠ .cfgWr reg v := fun reg v hi => hwrite ⟨reg, v, hi⟩
    have change := exec_stateChange h
    exact ⟨fun hi => encChange_untouched notWrite hi change.enc, fun hi => decChange_untouched notWrite hi change.dec,
      fun hi => genChange_untouched notWrite hi change.gen⟩

/-- Settles O8: each unit by the changes a command can make to it, the port by every branch of a command. -/
theorem commandsTouchOnlyTheirUnit : Obligations.CommandsTouchOnlyTheirUnit := by
  intro i s t h
  have change := exec_stateChange h
  obtain ⟨henc, hdec, hgen⟩ := exec_untouched h
  exact ⟨change.params, exec_port h, henc, hdec, hgen, change.par⟩

/-! ### NOP -/

theorem exec_nop (s : State) : exec .nop s = .next { s with response := ⟨.ok, []⟩ } := respond_eq .ok [] s

/-- The word with `OP` 0 is `NOP` when its other two fields are 0, and no command otherwise (30_encoding.md R304). -/
theorem decode_of_opField_zero {w : CommandWord} (hop : opField w = 0#8) :
    decode w = if auxField w = 0#8 ∧ dataField w = 0#32 then .ok .nop else .error (.reservedField 0#8) := by
  rw [decode, hop]
  change checkFields 0#8 (auxField w == 0#8 && dataField w == 0#32) .nop = _
  simp only [checkFields, Bool.and_eq_true, beq_iff_eq]

/-- Settles O10: `NOP` itself, and its word with the unused fields 0 and not. -/
theorem nopChangesNothing : Obligations.NopChangesNothing := by
  refine ⟨exec_nop, fun s w rest hport hop => ?_⟩
  have hdecode := decode_of_opField_zero hop
  split at hdecode
  · next hzero => rw [step_of_decode_ok hport hdecode, exec_nop, if_pos hzero]
  · next hused => rw [step_of_decode_error hport hdecode, refuse_eq, if_neg hused]

/-! ### CFG.RD -/

/-- Every register of the map reads its value, with nothing written (40_control.md R403). -/
theorem exec_cfgRd_regNumber (r : Reg) (s : State) :
    exec (.cfgRd (regNumber r)) s = .next { s with response := ⟨.ok, [readReg r s]⟩ } := by
  simp only [exec, execCfgRd, regOfNumber_regNumber, respond_eq]

/-- The registers that are no status register, in the order of the map (10_state.md R106). -/
def valueRegs : List Reg :=
  [.encCtrl, .encSens, .encMinDur, .encThresh, .encCount, .encLevel, .decCtrl, .decVolume, .decRem, .decPlen, .genCfg,
    .genRate, .genWptr, .genRateOut, .parVersion, .parMachine, .parVideo, .parBps, .parRate, .parDataLen, .parOffset,
    .parBufLen, .parReserved]

/-- Settles O12: the listed values are the registers' own, by their numbers. -/
theorem cfgRdReturnsTheValue : Obligations.CfgRdReturnsTheValue := by
  intro s p hp
  change p ∈ valueRegs.map fun r => (regNumber r, readReg r s) at hp
  obtain ⟨r, -, rfl⟩ := List.mem_map.mp hp
  exact exec_cfgRd_regNumber r s

/-! ### The resets -/

/-- Settles O18: the four units at their reset values are the power-on state but for the parameters and the port. -/
theorem blockResetLeavesThePowerOnState : Obligations.BlockResetLeavesThePowerOnState := fun s =>
  respond_eq .ok [] { s with enc := encReset, dec := decReset, gen := genReset, par := parReset }

/-- Settles O21: each unit reset responds from the state with its unit reset, the registers kept. -/
theorem unitResetsKeepConfiguration : Obligations.UnitResetsKeepConfiguration := fun s =>
  ⟨respond_eq .ok [] { s with enc := encUnitReset s.enc }, respond_eq .ok [] { s with dec := decUnitReset s.dec },
    respond_eq .ok [] { s with par := parReset }, respond_eq .ok [] { s with gen := genUnitReset s.gen }⟩

end Sys2Proof.Proofs
end

section
/-! ENC command by command (41_encoder.md R505 to R520): the detector as the statements write it, and each outcome of
`ENC.SAMPLE` and `ENC.FLUSH` as a whole next state. -/

namespace Sys2Proof.Proofs

open Sys2Proof.Machine Sys2Proof.Claims Sys2Proof.Laws

/-! ### The detector -/

/-- The turn that leaves a tracked direction (41_encoder.md R509). -/
def turnFrom : Dir → Turn
  | .up => .falling
  | .down => .rising

theorem encInput_of_spec {params : Config.Params} (h : params.wSample = 32) (e : Enc) (sample : Word) :
    encInput params e sample = sampleInput e sample := by
  rw [encInput, sampleOperand_of_spec h]
  rfl

/-- The two directions are one rule, said of how far the input moves back (41_encoder.md R509). -/
theorem encDetect_armed {e : Enc} (harmed : e.armed = true) (x : Int) :
    encDetect e x =
      if sampleMove e x ≤ 0 then ({ e with ext := x }, none)
      else if encAccepts e (sampleMove e x).toNat then
        ({ e with dir := oppositeDir e.dir, ext := x, level := (sampleMove e x).toNat }, some (turnFrom e.dir))
      else (e, none) := by
  cases hdir : e.dir with
  | up => simp only [encDetect_up harmed hdir, encTrackUp, sampleMove, hdir, sub_nonpos, oppositeDir, turnFrom]
  | down => simp only [encDetect_down harmed hdir, encTrackDown, sampleMove, hdir, sub_nonpos, oppositeDir, turnFrom]

theorem sampleTurns_of_forward {e : Enc} {x : Int} (h : sampleMove e x ≤ 0) : sampleTurns e x = false := by
  simp [sampleTurns, h]

/-- An input that moves back turns an armed detector when the hysteresis accepts its excursion (41_encoder.md R509). -/
theorem sampleTurns_of_back {e : Enc} {x : Int} (harmed : e.armed = true) (h : ¬ sampleMove e x ≤ 0) :
    sampleTurns e x = encAccepts e (sampleMove e x).toNat := by
  have hsens : encSensField e.sens = e.sens.toNat % 128 := by simp [encSensField]
  have hcast : ((sampleMove e x).toNat : Int) = sampleMove e x := Int.toNat_of_nonneg (by omega)
  have hback : 0 < sampleMove e x := by omega
  rw [sampleTurns, encAccepts, hsens, harmed, decide_eq_true hback, Bool.and_self, Bool.true_and, decide_eq_decide,
    ← Int.ofNat_le, Int.natCast_mul, Int.natCast_mul, hcast]
  rfl

theorem sampleTracked_of_arming {e : Enc} {x : Int} (harmed : e.armed = false) (hx : e.thresh.toNat < x.natAbs) :
    sampleTracked e x =
      { e with armed := true, dir := if 0 < x then .up else .down, ext := x, level := e.thresh.toNat } := by
  simp [sampleTracked, harmed, hx]

theorem sampleTracked_of_le_thresh {e : Enc} {x : Int} (harmed : e.armed = false) (hx : x.natAbs ≤ e.thresh.toNat) :
    sampleTracked e x = e := by
  simp [sampleTracked, harmed, Nat.not_lt.mpr hx]

theorem sampleTracked_of_forward {e : Enc} {x : Int} (harmed : e.armed = true) (h : sampleMove e x ≤ 0) :
    sampleTracked e x = { e with ext := x } := by
  simp [sampleTracked, harmed, h, sampleTurns_of_forward h]

theorem sampleTracked_of_turn {e : Enc} {x : Int} (harmed : e.armed = true) (h : sampleTurns e x = true) :
    sampleTracked e x =
      { e with dir := oppositeDir e.dir, ext := x, level := (sampleMove e x).toNat } := by
  cases hdir : e.dir with
  | up => simp [sampleTracked, harmed, h, hdir, oppositeDir]
  | down => simp [sampleTracked, harmed, h, hdir, oppositeDir]

/-- A move back that is no turn is suppressed (41_encoder.md R509). -/
theorem sampleTracked_of_suppressed {e : Enc} {x : Int} (harmed : e.armed = true) (hback : ¬ sampleMove e x ≤ 0)
    (h : sampleTurns e x = false) : sampleTracked e x = e := by
  rw [sampleTracked, if_pos harmed, h]
  simp [hback]

/-- The detector as the statements write it: the tracked state, and the turn where there is one. -/
theorem encDetect_eq (e : Enc) (x : Int) :
    encDetect e x = (sampleTracked e x, if sampleTurns e x then some (turnFrom e.dir) else none) := by
  cases harmed : e.armed with
  | false =>
    have hturn : sampleTurns e x = false := by simp [sampleTurns, harmed]
    rw [encDetect_unarmed harmed, encArm, hturn]
    split
    · next hx => rw [sampleTracked_of_arming harmed hx]; rfl
    · next hx => rw [sampleTracked_of_le_thresh harmed (Nat.not_lt.mp hx)]; rfl
  | true =>
    rw [encDetect_armed harmed]
    split
    · next hmove => rw [sampleTracked_of_forward harmed hmove, sampleTurns_of_forward hmove]; rfl
    · next hmove =>
      rw [← sampleTurns_of_back harmed hmove]
      cases hturn : sampleTurns e x with
      | true => rw [sampleTracked_of_turn harmed hturn]; rfl
      | false => rw [sampleTracked_of_suppressed harmed hmove hturn]; rfl

/-- The detector writes no register and neither the count, the mode nor the fault bit (41_encoder.md R507, R509). -/
theorem sampleTracked_frame (e : Enc) (x : Int) :
    (sampleTracked e x).ctrl = e.ctrl ∧ (sampleTracked e x).sens = e.sens ∧ (sampleTracked e x).minDur = e.minDur ∧
      (sampleTracked e x).thresh = e.thresh ∧ (sampleTracked e x).mode = e.mode ∧
      (sampleTracked e x).count = e.count ∧ (sampleTracked e x).fCntOvf = e.fCntOvf := by
  have frame := encDetect_frame e x
  rwa [encDetect_eq] at frame

theorem sampleTracked_unit (e : Enc) (x : Int) :
    { sampleTracked e x with count := e.count, mode := e.mode, fCntOvf := e.fCntOvf } = sampleTracked e x := by
  obtain ⟨-, -, -, -, hmode, hcount, hfault⟩ := sampleTracked_frame e x
  rw [← hmode, ← hcount, ← hfault]

theorem encBoundary_turnFrom (ctrl : Word) (d : Dir) :
    encBoundary ctrl (some (turnFrom d)) = (ctrl.getLsbD 1 || (ctrl.getLsbD 2 == (d == .up))) := by
  cases d with
  | up => simp [turnFrom, encBoundary, encHalf, encTrigFalling]
  | down => simp [turnFrom, encBoundary, encHalf, encTrigFalling, show (Dir.down == Dir.up) = false from rfl]

/-- The pulse of a turn, read off the detector after it, is the one the unit before it completes (41_encoder.md R510,
R511). -/
theorem encEmits_tracked (e : Enc) (x : Int) :
    encEmits (sampleTracked e x) (if sampleTurns e x then some (turnFrom e.dir) else none) = sampleEmits e x := by
  obtain ⟨hctrl, -, hminDur, -, -, hcount, -⟩ := sampleTracked_frame e x
  rw [encEmits, sampleEmits, hctrl, hminDur, hcount]
  cases sampleTurns e x with
  | true => rw [if_pos rfl, encBoundary_turnFrom, Bool.true_and]
  | false => rfl

/-! ### The outcomes of `ENC.SAMPLE` and `ENC.FLUSH` -/

section
variable {s : State} {sample : Word}

theorem exec_encSample_closed (hmode : s.enc.mode ≠ .running) (sample : Word) :
    exec (.encSample sample) s = .next { s with response := ⟨.badState, []⟩ } := by
  simp only [exec, execEncSample, if_pos hmode, refuse_eq]

theorem exec_encFlush_closed (hmode : s.enc.mode ≠ .running) :
    exec .encFlush s = .next { s with response := ⟨.badState, []⟩ } := by
  simp only [exec, execEncFlush, if_pos hmode, refuse_eq]

theorem exec_encFlush_running (hrun : s.enc.mode = .running) :
    exec .encFlush s = .next { s with
      enc := { s.enc with count := 0, mode := .ended }
      response := ⟨.ok, if s.enc.armed = true ∧ 0 < s.enc.count then [natWord s.enc.count] else []⟩ } := by
  simp only [exec, execEncFlush, ne_eq, hrun, not_true_eq_false, if_false, respond_eq, Bool.and_eq_true,
    decide_eq_true_eq]

variable (hspec : SpecConstants s.params) (hrun : s.enc.mode = .running)
include hspec hrun

/-- A running encoder counts the sample from 0 behind a pulse, else from the count as it stood (41_encoder.md R505). -/
theorem exec_encSample_running :
    exec (.encSample sample) s =
      if sampleEmits s.enc (sampleInput s.enc sample) then
        encCountSample [natWord s.enc.count]
          { s with enc := { sampleTracked s.enc (sampleInput s.enc sample) with count := 0 } }
      else encCountSample [] { s with enc := sampleTracked s.enc (sampleInput s.enc sample) } := by
  obtain ⟨hsample, -⟩ := hspec
  obtain ⟨-, -, -, -, -, hcount, -⟩ := sampleTracked_frame s.enc (sampleInput s.enc sample)
  simp only [exec, execEncSample, ne_eq, hrun, not_true_eq_false, if_false, encInput_of_spec hsample, encDetect_eq,
    encEmits_tracked, hcount]

theorem exec_encSample_emits (hemits : sampleEmits s.enc (sampleInput s.enc sample) = true) :
    exec (.encSample sample) s = .next { s with
      enc := { sampleTracked s.enc (sampleInput s.enc sample) with count := 1 }
      response := ⟨.ok, [natWord s.enc.count]⟩ } := by
  have hmax := cntMax_of_spec hspec.2.1
  rw [exec_encSample_running hspec hrun, if_pos hemits]
  exact encCountSample_counts _ (by change 0 ≠ Config.cntMax s.params; omega)

theorem exec_encSample_counts (hemits : sampleEmits s.enc (sampleInput s.enc sample) = false)
    (hroom : s.enc.count ≠ 2 ^ 32 - 1) :
    exec (.encSample sample) s = .next { s with
      enc := { sampleTracked s.enc (sampleInput s.enc sample) with count := s.enc.count + 1 }
      response := ⟨.ok, []⟩ } := by
  have hmax := cntMax_of_spec hspec.2.1
  obtain ⟨-, -, -, -, -, hcount, -⟩ := sampleTracked_frame s.enc (sampleInput s.enc sample)
  rw [exec_encSample_running hspec hrun, hemits, if_neg Bool.false_ne_true, ← hcount]
  exact encCountSample_counts _ (by change (sampleTracked _ _).count ≠ Config.cntMax s.params; omega)

theorem exec_encSample_overflows (hemits : sampleEmits s.enc (sampleInput s.enc sample) = false)
    (hfull : s.enc.count = 2 ^ 32 - 1) :
    exec (.encSample sample) s = .next { s with
      enc := { sampleTracked s.enc (sampleInput s.enc sample) with fCntOvf := true, mode := .faulted }
      response := ⟨.counterOverflow, []⟩ } := by
  have hmax := cntMax_of_spec hspec.2.1
  obtain ⟨-, -, -, -, -, hcount, -⟩ := sampleTracked_frame s.enc (sampleInput s.enc sample)
  rw [exec_encSample_running hspec hrun, hemits, if_neg Bool.false_ne_true]
  exact encCountSample_full _ (by change (sampleTracked _ _).count = Config.cntMax s.params; omega)

end

/-! ### The statements of one command -/

/-- Settles O24: the two outcomes of `ENC.FLUSH`, and the closed gate of `ENC.SAMPLE`. -/
theorem encFlushEndsTheStream : Obligations.EncFlushEndsTheStream := fun _ _ =>
  ⟨exec_encFlush_running, fun hmode => ⟨exec_encFlush_closed hmode, exec_encSample_closed hmode⟩⟩

/-- Everything `ENC.SAMPLE` with the detector's input `x` can do to a state (41_encoder.md R505). -/
inductive SampleOutcome (s : State) (x : Int) : State → Prop where
  | closed (hmode : s.enc.mode ≠ .running) : SampleOutcome s x { s with response := ⟨.badState, []⟩ }
  | emits (hrun : s.enc.mode = .running) (hemits : sampleEmits s.enc x = true) :
      SampleOutcome s x { s with
        enc := { sampleTracked s.enc x with count := 1 }, response := ⟨.ok, [natWord s.enc.count]⟩ }
  | counts (hrun : s.enc.mode = .running) (hroom : s.enc.count ≠ 2 ^ 32 - 1) :
      SampleOutcome s x { s with
        enc := { sampleTracked s.enc x with count := s.enc.count + 1 }, response := ⟨.ok, []⟩ }
  | overflows (hrun : s.enc.mode = .running) :
      SampleOutcome s x { s with
        enc := { sampleTracked s.enc x with fCntOvf := true, mode := .faulted }
        response := ⟨.counterOverflow, []⟩ }

theorem exec_encSample_outcome {s t : State} {sample : Word} (hspec : SpecConstants s.params)
    (h : exec (.encSample sample) s = .next t) : SampleOutcome s (sampleInput s.enc sample) t := by
  by_cases hrun : s.enc.mode = .running
  · cases hemits : sampleEmits s.enc (sampleInput s.enc sample) with
    | true =>
      rw [exec_encSample_emits hspec hrun hemits] at h
      cases h
      exact .emits hrun hemits
    | false =>
      by_cases hfull : s.enc.count = 2 ^ 32 - 1
      · rw [exec_encSample_overflows hspec hrun hemits hfull] at h
        cases h
        exact .overflows hrun
      · rw [exec_encSample_counts hspec hrun hemits hfull] at h
        cases h
        exact .counts hrun hfull
  · rw [exec_encSample_closed hrun] at h
    cases h
    exact .closed hrun

/-- Whatever a running encoder counts, emits or faults, the detector it leaves is the tracked one (41_encoder.md R505,
60_exceptions.md R912). -/
theorem SampleOutcome.tracks {s t : State} {x : Int} (hrun : s.enc.mode = .running) (h : SampleOutcome s x t) :
    { t.enc with count := s.enc.count, mode := s.enc.mode, fCntOvf := s.enc.fCntOvf } = sampleTracked s.enc x := by
  cases h with
  | closed hmode => exact absurd hrun hmode
  | emits | counts | overflows => exact sampleTracked_unit s.enc x

/-- ENC is disarmed only by a reset (41_encoder.md R507). -/
theorem encChange_armed {params : Config.Params} {e e' : Enc} {i : Instr} (h : EncChange params e i e')
    (hi : i ∉ [Instr.encReset, .reset]) (harmed : e.armed = true) : e'.armed = true := by
  have detect : ∀ x, (encDetect e x).1.armed = true := by
    intro x
    obtain heq | ⟨dir, level, heq, -⟩ := encDetect_cases e x
    · rw [heq, harmed]
    · rw [heq]
  cases h with
  | ctrl reg v => rw [writeEncCtrl_armed, harmed]
  | counted x | overflowed x => exact detect _
  | unitReset | blockReset => simp at hi
  | kept | sens | minDur | thresh | flushed => exact harmed

/-- Settles O22: the outcome of `ENC.SAMPLE` by whether it emits, the detector of every outcome, and arming by the
changes a command can make to ENC. -/
theorem encSampleFollowsTheDetector : Obligations.EncSampleFollowsTheDetector := by
  refine ⟨?_, fun i s t h hi => encChange_armed (exec_stateChange h).enc hi⟩
  intro s sample hspec x emits hrun
  refine ⟨fun hcan => ?_, fun t h => (exec_encSample_outcome hspec h).tracks hrun⟩
  cases hemits : emits with
  | true => exact exec_encSample_emits hspec hrun hemits
  | false => exact exec_encSample_counts hspec hrun hemits (hcan.resolve_right (by simp [hemits]))

/-- A sample that completes a pulse turns an armed detector, with a count of at least ENC_MINDUR (41_encoder.md
R511). -/
theorem armed_minDur_le_of_sampleEmits {e : Enc} {x : Int} (h : sampleEmits e x = true) :
    e.armed = true ∧ e.minDur.toNat ≤ e.count := by
  simp only [sampleEmits, sampleTurns, Bool.and_eq_true, decide_eq_true_eq] at h
  obtain ⟨⟨⟨⟨harmed, -⟩, -⟩, -⟩, hminDur⟩ := h
  exact ⟨harmed, hminDur⟩

/-- Settles O25: the only word `ENC.SAMPLE` answers is the count at an emitting boundary, which the invariant makes at
least 1. -/
theorem encPulsesAreDebounced : Obligations.EncPulsesAreDebounced := by
  intro s t sample hspec hok h w hw
  cases exec_encSample_outcome hspec h with
  | emits hrun hemits =>
    obtain rfl := List.mem_singleton.mp hw
    obtain ⟨harmed, hminDur⟩ := armed_minDur_le_of_sampleEmits hemits
    have hmax := cntMax_of_spec hspec.2.1
    have hcount := hok.count_range
    rw [natWord_toNat (by omega)]
    exact ⟨hok.counted harmed hrun, hminDur⟩
  | closed | counts | overflows => cases hw

/-! ### CFG.WR -/

/-- A write of a register is performed by the register's number (40_control.md R402). -/
theorem exec_cfgWr_regNumber {r : Reg} {v : Word} {s t : State} (h : writeReg r v s = some t) :
    exec (.cfgWr (regNumber r) v) s = .next { t with response := ⟨.ok, []⟩ } := by
  simp only [exec, execCfgWr, regOfNumber_regNumber, Option.bind_some, h, respond_eq]

/-- A write of ENC_CTRL field by field: the register, and the extremum and direction of a detector whose polarity it
changes (41_encoder.md R516). -/
theorem writeEncCtrl_eq (v : Word) (e : Enc) :
    writeEncCtrl v e =
      { e with
        ctrl := v &&& 0x7#32
        ext := if e.armed && (e.ctrl.getLsbD 0 != v.getLsbD 0) then -e.ext else e.ext
        dir := if e.armed && (e.ctrl.getLsbD 0 != v.getLsbD 0) then oppositeDir e.dir else e.dir } := by
  have hinvert : encInvert (legalEncCtrl v) = v.getLsbD 0 := by simp [encInvert, legalEncCtrl]
  rw [writeEncCtrl, hinvert, encInvert, legalEncCtrl]
  cases e.armed && (e.ctrl.getLsbD 0 != v.getLsbD 0) with
  | true => rfl
  | false => rfl

theorem legalEncSens_eq (v : Word) : legalEncSens v = BitVec.ofNat 32 (min (v.toNat % 128) 100) := by
  simp [legalEncSens, natWord, encSensField]

theorem legalDecCtrl_eq (v : Word) :
    legalDecCtrl v = if v.toNat % 4 = 3 then v &&& 0xC#32 else v &&& 0xF#32 := by
  have hshape : decShape v = v.toNat % 4 := by simp [decShape]
  rw [legalDecCtrl, hshape]

/-- Settles O11: the eight writable registers by their numbers, each storing its legal value. -/
theorem cfgWrStoresTheLegalValue : Obligations.CfgWrStoresTheLegalValue := by
  intro s v flips
  have encCtrl := exec_cfgWr_regNumber (r := .encCtrl) (v := v) (s := s) rfl
  have encSens := exec_cfgWr_regNumber (r := .encSens) (v := v) (s := s) rfl
  have decCtrl := exec_cfgWr_regNumber (r := .decCtrl) (v := v) (s := s) rfl
  rw [writeEncCtrl_eq] at encCtrl
  rw [legalEncSens_eq] at encSens
  rw [legalDecCtrl_eq] at decCtrl
  exact ⟨encCtrl, encSens, exec_cfgWr_regNumber (r := .encMinDur) rfl, exec_cfgWr_regNumber (r := .encThresh) rfl,
    decCtrl, exec_cfgWr_regNumber (r := .decVolume) rfl, exec_cfgWr_regNumber (r := .genCfg) rfl,
    exec_cfgWr_regNumber (r := .genRate) rfl⟩

end Sys2Proof.Proofs
end

section
/-! ENC over streams of commands (41_encoder.md R530 to R532): conservation by the count each command leaves, and the
silent stream and the square wave by the words a list of commands answers between two conditions on the state. -/

namespace Sys2Proof.Proofs

open Sys2Proof.Machine Sys2Proof.Claims Sys2Proof.Laws

theorem perform_of_exec {i : Instr} {s t : State} (h : exec i s = .next t) : perform i s = t := by
  rw [perform, h]

theorem exec_perform (i : Instr) (s : State) : exec i s = .next (perform i s) := by
  obtain ⟨t, h⟩ := exec_next i s
  rw [h, perform_of_exec h]

/-! ### Conservation -/

theorem encEmitted_cons (i : Instr) (rest : List Instr) (s : State) :
    encEmitted (i :: rest) s = encEmitted [i] s ++ encEmitted rest (perform i s) :=
  congrArg (· ++ encEmitted rest (perform i s)) (List.append_nil _).symm

theorem encEmitted_sample (x : Word) (s : State) :
    encEmitted [.encSample x] s = (perform (.encSample x) s).response.words.map BitVec.toNat :=
  List.append_nil _

theorem encEmitted_flush (s : State) :
    encEmitted [.encFlush] s = (perform .encFlush s).response.words.map BitVec.toNat :=
  List.append_nil _

theorem encEmitted_other {i : Instr} (hsample : isSample i = false) (hends : endsEncStream i = false) (s : State) :
    encEmitted [i] s = [] := by
  cases i with
  | encSample => cases hsample
  | encFlush | encReset | reset => cases hends
  | _ => rfl

/-- A command that neither gives a sample nor ends the stream keeps the mode and the count (41_encoder.md R516 to
R518). -/
theorem encChange_count {params : Config.Params} {e e' : Enc} {i : Instr} (hsample : isSample i = false)
    (hends : endsEncStream i = false) (h : EncChange params e i e') : e'.mode = e.mode ∧ e'.count = e.count := by
  cases h with
  | kept | sens | minDur | thresh => exact ⟨rfl, rfl⟩
  | ctrl reg v => exact ⟨writeEncCtrl_mode v e, writeEncCtrl_count v e⟩
  | counted | overflowed => cases hsample
  | flushed | unitReset | blockReset => cases hends

/-- A running encoder at the spec's widths, its count in range (10_state.md R117). -/
structure Counting (s : State) : Prop where
  spec : SpecConstants s.params
  running : s.enc.mode = .running
  count_le : s.enc.count ≤ 2 ^ 32 - 1

/-- What a command emits and the count it leaves hold the count before it and its sample (41_encoder.md R511, R512). -/
theorem counting_perform {i : Instr} {s : State} (hs : Counting s) (hends : endsEncStream i = false)
    (hok : (perform i s).response.status ≠ .counterOverflow) :
    Counting (perform i s) ∧
      (encEmitted [i] s).sum + (perform i s).enc.count = s.enc.count + [i].countP isSample := by
  obtain ⟨spec, running, count_le⟩ := hs
  have hexec := exec_perform i s
  have change := exec_stateChange hexec
  have spec' : SpecConstants (perform i s).params := change.params ▸ spec
  cases hsample : isSample i with
  | false =>
    obtain ⟨hmode, hcount⟩ := encChange_count hsample hends change.enc
    refine ⟨⟨spec', hmode.trans running, hcount ▸ count_le⟩, ?_⟩
    simp [encEmitted_other hsample hends, hcount, hsample]
  | true =>
    cases i with
    | encSample x =>
      obtain ⟨-, -, -, -, hmode, -, -⟩ := sampleTracked_frame s.enc (sampleInput s.enc x)
      rw [encEmitted_sample]
      generalize perform (.encSample x) s = t at *
      cases exec_encSample_outcome spec hexec with
      | closed hmode => exact absurd running hmode
      | emits =>
        refine ⟨⟨spec, hmode.trans running, by simp⟩, ?_⟩
        simp [natWord_toNat (n := s.enc.count) (by omega), isSample]
      | counts _ hroom =>
        refine ⟨⟨spec, hmode.trans running, by change s.enc.count + 1 ≤ _; omega⟩, ?_⟩
        simp [isSample]
      | overflows => exact absurd rfl hok
    | _ => cases hsample

/-- `ENC.FLUSH` emits the pending count of an armed encoder (41_encoder.md R520). -/
theorem encEmitted_flush_sum {s : State} (hs : Counting s) (harmed : (perform .encFlush s).enc.armed = true) :
    (encEmitted [.encFlush] s).sum = s.enc.count := by
  have hflush := perform_of_exec (exec_encFlush_running hs.running)
  have hcount := hs.count_le
  rw [hflush] at harmed
  have harmed : s.enc.armed = true := harmed
  rw [encEmitted_flush, hflush]
  by_cases hpos : 0 < s.enc.count
  · simp [harmed, hpos, natWord_toNat (n := s.enc.count) (by omega)]
  · have hzero : s.enc.count = 0 := by omega
    simp [hzero]

/-- From any count on, a flushed stream emits that count and its samples. -/
theorem encEmitted_stream_sum {commands : List Instr} {s : State} (hs : Counting s)
    (hends : ∀ c ∈ commands, endsEncStream c = false)
    (hok : ∀ r ∈ (performAll (commands ++ [.encFlush]) s).1, r.status ≠ .counterOverflow)
    (harmed : (performAll (commands ++ [.encFlush]) s).2.enc.armed = true) :
    (encEmitted (commands ++ [.encFlush]) s).sum = s.enc.count + commands.countP isSample := by
  induction commands generalizing s with
  | nil => exact encEmitted_flush_sum hs harmed
  | cons i rest ih =>
    obtain ⟨hi, hrest⟩ := List.forall_mem_cons.mp hends
    obtain ⟨hfirst, hlater⟩ := List.forall_mem_cons.mp hok
    obtain ⟨hnext, hsum⟩ := counting_perform hs hi hfirst
    have hstream := ih hnext hrest hlater harmed
    have hcountP : (i :: rest).countP isSample = [i].countP isSample + rest.countP isSample :=
      List.countP_append (l₁ := [i])
    rw [List.cons_append, encEmitted_cons, List.sum_append, hstream, hcountP]
    omega

/-- Settles O26: the stream from the count 0 that `ENC.RESET` leaves. -/
theorem pulsesSumToTheSamples : Obligations.PulsesSumToTheSamples := by
  intro s commands hspec hends stream hok harmed
  obtain ⟨-, hlater⟩ := List.forall_mem_cons.mp hok
  have hreset : Counting (perform .encReset s) := ⟨hspec, rfl, Nat.zero_le _⟩
  exact (encEmitted_stream_sum hreset hends hlater harmed).trans (Nat.zero_add _)

/-! ### The words a list of commands answers -/

theorem performAll_append (xs ys : List Instr) (s : State) :
    performAll (xs ++ ys) s =
      ((performAll xs s).1 ++ (performAll ys (performAll xs s).2).1, (performAll ys (performAll xs s).2).2) := by
  induction xs generalizing s with
  | nil => rfl
  | cons i rest ih => simp [performAll, ih]

/-- From every state with `P`, the commands answer `words` and leave a state with `Q`. -/
def Answers (P : State → Prop) (commands : List Instr) (words : List Word) (Q : State → Prop) : Prop :=
  ∀ s, P s → allWords (performAll commands s).1 = words ∧ Q (performAll commands s).2

namespace Answers

variable {P Q R : State → Prop} {xs ys : List Instr} {ws vs : List Word} {i : Instr}

theorem nil (P : State → Prop) : Answers P [] [] P := fun _ hs => ⟨rfl, hs⟩

theorem single (h : ∀ s, P s → (perform i s).response.words = ws ∧ Q (perform i s)) : Answers P [i] ws Q := by
  intro s hs
  obtain ⟨hwords, hq⟩ := h s hs
  exact ⟨(List.append_nil _).trans hwords, hq⟩

theorem append (hxs : Answers P xs ws Q) (hys : Answers Q ys vs R) : Answers P (xs ++ ys) (ws ++ vs) R := by
  intro s hs
  obtain ⟨hws, hq⟩ := hxs s hs
  obtain ⟨hvs, hr⟩ := hys _ hq
  rw [performAll_append]
  refine ⟨?_, hr⟩
  rw [← hws, ← hvs, allWords, List.map_append, List.flatten_append]
  rfl

theorem cons (hi : Answers P [i] ws Q) (hys : Answers Q ys vs R) : Answers P (i :: ys) (ws ++ vs) R := append hi hys

/-- The same commands again and again, each time from the state they leave. -/
theorem flatten_replicate (h : Answers P xs ws P) (n : Nat) :
    Answers P (List.replicate n xs).flatten (List.replicate n ws).flatten P := by
  induction n with
  | zero => exact nil P
  | succ n ih => exact append h ih

end Answers

/-! ### A stream that never exceeds the threshold -/

/-- An encoder that no sample has armed, with a threshold `th` (41_encoder.md R507). -/
structure Unarmed (th : Word) (s : State) : Prop where
  spec : SpecConstants s.params
  unarmed : s.enc.armed = false
  thresh : s.enc.thresh = th

theorem sampleInput_natAbs (e : Enc) (sample : Word) : (sampleInput e sample).natAbs = sample.toInt.natAbs := by
  rw [sampleInput]
  split
  · exact Int.natAbs_neg _
  · rfl

theorem unarmed_sample {th x : Word} (hx : x.toInt.natAbs ≤ th.toNat) :
    Answers (Unarmed th) [.encSample x] [] (Unarmed th) := by
  refine .single fun s hs => ?_
  obtain ⟨spec, unarmed, rfl⟩ := hs
  have hkept := sampleTracked_of_le_thresh unarmed ((sampleInput_natAbs s.enc x).trans_le hx)
  have hexec := exec_perform (.encSample x) s
  generalize perform (.encSample x) s = t at *
  cases exec_encSample_outcome spec hexec with
  | closed => exact ⟨rfl, spec, unarmed, rfl⟩
  | emits _ hemits =>
    obtain ⟨harmed, -⟩ := armed_minDur_le_of_sampleEmits hemits
    exact absurd harmed (by simp [unarmed])
  | counts | overflows =>
    rw [hkept]
    exact ⟨rfl, spec, unarmed, rfl⟩

theorem unarmed_samples {th : Word} {samples : List Word} (h : ∀ x ∈ samples, x.toInt.natAbs ≤ th.toNat) :
    Answers (Unarmed th) (samples.map .encSample) [] (Unarmed th) := by
  induction samples with
  | nil => exact .nil _
  | cons x rest ih =>
    obtain ⟨hx, hrest⟩ := List.forall_mem_cons.mp h
    exact (unarmed_sample hx).cons (ih hrest)

theorem unarmed_flush (th : Word) : Answers (Unarmed th) [.encFlush] [] fun _ => True := by
  refine .single fun s hs => ⟨?_, trivial⟩
  by_cases hrun : s.enc.mode = .running
  · simp [perform_of_exec (exec_encFlush_running hrun), hs.unarmed]
  · rw [perform_of_exec (exec_encFlush_closed hrun)]

/-- Settles O27: `ENC.RESET` disarms, no sample arms, and the flush of an unarmed encoder emits nothing. -/
theorem silentStreamsEmitNothing : Obligations.SilentStreamsEmitNothing := by
  intro s samples hspec hsamples
  have reset : Answers (· = s) [.encReset] [] (Unarmed s.enc.thresh) :=
    .single fun u hs => by
      subst hs
      exact ⟨rfl, hspec, rfl, rfl⟩
  have stream := reset.cons ((unarmed_samples hsamples).append (unarmed_flush s.enc.thresh))
  exact (stream s rfl).1

/-! ### The square wave -/

theorem toWord32_toInt {x : Int} (hlo : -2 ^ 31 ≤ x) (hhi : x < 2 ^ 31) : (toWord32 x).toInt = x := by
  rw [toWord32, BitVec.toInt_ofInt]
  exact Int.bmod_eq_of_le hlo hhi

/-- A running encoder with the wave's configuration and a threshold below its amplitude (41_encoder.md R532). -/
structure WaveConfig (A : Nat) (s : State) : Prop where
  spec : SpecConstants s.params
  running : s.enc.mode = .running
  ctrl : s.enc.ctrl = 0#32
  sens : s.enc.sens = 100#32
  minDur : s.enc.minDur = 0#32
  thresh : s.enc.thresh.toNat < A

/-- Before the first sample of the wave. -/
structure WaveStart (A : Nat) (s : State) : Prop extends WaveConfig A s where
  unarmed : s.enc.armed = false
  count : s.enc.count = 0

/-- Inside the wave, `c` samples behind the last pulse. -/
structure WaveAt (A : Nat) (d : Dir) (ext : Int) (c : Nat) (s : State) : Prop extends WaveConfig A s where
  armed : s.enc.armed = true
  dir : s.enc.dir = d
  ext : s.enc.ext = ext
  count : s.enc.count = c

/-- At `SENS` 100 every move back is a turn (41_encoder.md R509). -/
theorem sampleTurns_of_sens {e : Enc} {x : Int} (harmed : e.armed = true) (hsens : e.sens = 100#32)
    (h : 0 < sampleMove e x) : sampleTurns e x = true := by
  have hlevel : ((100 - e.sens.toNat % 128 : Nat) : Int) * e.level ≤ 200 * sampleMove e x := by
    rw [hsens]
    simpa using h.le
  simp [sampleTurns, harmed, h, hlevel]

section
variable {A : Nat} {s : State} {w : Word} {ext : Int} {c : Nat} {d : Dir}

theorem WaveConfig.sampleInput (hs : WaveConfig A s) (w : Word) : sampleInput s.enc w = w.toInt := by
  simp [Claims.sampleInput, hs.ctrl]

theorem WaveConfig.tracked (hs : WaveConfig A s) (x : Int) (c : Nat) (r : Response) :
    WaveConfig A { s with enc := { sampleTracked s.enc x with count := c }, response := r } := by
  obtain ⟨hctrl, hsens, hminDur, hthresh, hmode, -, -⟩ := sampleTracked_frame s.enc x
  exact ⟨hs.spec, hmode.trans hs.running, hctrl.trans hs.ctrl, hsens.trans hs.sens, hminDur.trans hs.minDur,
    hthresh ▸ hs.thresh⟩

/-- A sample at the extremum is counted and no more. -/
theorem waveAt_hold (hext : w.toInt = ext) (hroom : c ≠ 2 ^ 32 - 1) :
    Answers (WaveAt A d ext c) [.encSample w] [] (WaveAt A d ext (c + 1)) := by
  refine .single fun s hs => ?_
  obtain ⟨config, harmed, hdir, rfl, rfl⟩ := hs
  have hmove : sampleMove s.enc (sampleInput s.enc w) ≤ 0 := by
    rw [config.sampleInput, hext, sampleMove]
    split <;> omega
  have hemits : sampleEmits s.enc (sampleInput s.enc w) = false := by
    simp [sampleEmits, sampleTurns_of_forward hmove]
  have htracked := sampleTracked_of_forward harmed hmove
  rw [perform_of_exec (exec_encSample_counts config.spec config.running hemits hroom)]
  refine ⟨rfl, config.tracked _ _ _, ?_, ?_, ?_, rfl⟩
  · rw [htracked, harmed]
  · rw [htracked, hdir]
  · rw [htracked, config.sampleInput, hext]

theorem waveAt_holds (hext : w.toInt = ext) {n : Nat} (hroom : c + n ≤ 2 ^ 32 - 1) :
    Answers (WaveAt A d ext c) (List.replicate n (.encSample w)) [] (WaveAt A d ext (c + n)) := by
  induction n generalizing c with
  | zero => exact .nil _
  | succ n ih =>
    rw [← Nat.add_assoc, Nat.add_right_comm]
    exact (waveAt_hold hext (by omega)).cons (ih (by omega))

/-- Every move back turns the wave's detector to the sample, whatever count and response the command leaves. -/
theorem WaveAt.turns (hs : WaveAt A d ext c s) (hback : 0 < sampleMove s.enc w.toInt) :
    sampleTurns s.enc (Claims.sampleInput s.enc w) = true ∧ ∀ c' r,
      WaveAt A (oppositeDir d) w.toInt c'
        { s with enc := { sampleTracked s.enc (Claims.sampleInput s.enc w) with count := c' }, response := r } := by
  obtain ⟨config, harmed, rfl, -, -⟩ := hs
  have hturn := sampleTurns_of_sens harmed config.sens hback
  have htracked := sampleTracked_of_turn harmed hturn
  rw [config.sampleInput]
  refine ⟨hturn, fun c' r => ⟨config.tracked _ _ _, ?_, ?_, ?_, rfl⟩⟩
  · rw [htracked, harmed]
  · rw [htracked]
  · rw [htracked]

/-- The first low sample is a falling turn, which the rising trigger does not emit (41_encoder.md R510). -/
theorem waveAt_fall (hlow : w.toInt < ext) (hroom : c ≠ 2 ^ 32 - 1) :
    Answers (WaveAt A .up ext c) [.encSample w] [] (WaveAt A .down w.toInt (c + 1)) := by
  refine .single fun s hs => ?_
  have hback : 0 < sampleMove s.enc w.toInt := by
    rw [sampleMove, hs.dir, hs.ext]
    exact Int.sub_pos.mpr hlow
  obtain ⟨-, hnext⟩ := hs.turns hback
  have hemits : sampleEmits s.enc (sampleInput s.enc w) = false := by simp [sampleEmits, hs.ctrl, hs.dir]
  rw [perform_of_exec (exec_encSample_counts hs.spec hs.running hemits (hs.count ▸ hroom)), hs.count]
  exact ⟨rfl, hnext _ _⟩

/-- The first high sample behind a low one is a rising turn, the boundary that emits the count (41_encoder.md R510,
R511). -/
theorem waveAt_rise (hhigh : ext < w.toInt) :
    Answers (WaveAt A .down ext c) [.encSample w] [natWord c] (WaveAt A .up w.toInt 1) := by
  refine .single fun s hs => ?_
  have hback : 0 < sampleMove s.enc w.toInt := by
    rw [sampleMove, hs.dir, hs.ext]
    exact Int.sub_pos.mpr hhigh
  obtain ⟨hturn, hnext⟩ := hs.turns hback
  have hemits : sampleEmits s.enc (sampleInput s.enc w) = true := by
    simp [sampleEmits, hturn, hs.ctrl, hs.minDur, hs.dir]
  rw [perform_of_exec (exec_encSample_emits hs.spec hs.running hemits), hs.count]
  exact ⟨rfl, hnext _ _⟩

/-- The first sample of the wave arms the encoder upwards (41_encoder.md R507). -/
theorem waveStart_arms (hA : 0 < A) (hhigh : w.toInt = A) :
    Answers (WaveStart A) [.encSample w] [] (WaveAt A .up w.toInt 1) := by
  refine .single fun s hs => ?_
  obtain ⟨config, hunarmed, hcount⟩ := hs
  have hinput : sampleInput s.enc w = A := (config.sampleInput w).trans hhigh
  have hemits : sampleEmits s.enc (sampleInput s.enc w) = false := by
    simp [sampleEmits, sampleTurns, hunarmed]
  have htracked := sampleTracked_of_arming (x := sampleInput s.enc w) hunarmed (by rw [hinput]; exact config.thresh)
  rw [perform_of_exec (exec_encSample_counts config.spec config.running hemits (by omega))]
  refine ⟨rfl, config.tracked _ _ _, ?_, ?_, ?_, ?_⟩
  · rw [htracked]
  · rw [htracked, hinput]
    exact if_pos (Int.natCast_pos.mpr hA)
  · rw [htracked, config.sampleInput]
  · change s.enc.count + 1 = 1
    rw [hcount]

/-- `ENC.FLUSH` emits the last period of the wave (41_encoder.md R520). -/
theorem waveAt_flush (hc : 0 < c) : Answers (WaveAt A d ext c) [.encFlush] [natWord c] fun _ => True := by
  refine .single fun s hs => ⟨?_, trivial⟩
  obtain ⟨config, harmed, -, -, rfl⟩ := hs
  simp [perform_of_exec (exec_encFlush_running config.running), harmed, hc]

theorem waveStart_flush (A : Nat) : Answers (WaveStart A) [.encFlush] [] fun _ => True := by
  refine .single fun s hs => ⟨?_, trivial⟩
  simp [perform_of_exec (exec_encFlush_running hs.running), hs.unarmed]

end

section
variable {A P : Nat} (hA : 0 < A) (hmax : A ≤ 2 ^ 31 - 1) (hP : 2 ≤ P) (hcnt : P ≤ 2 ^ 32 - 1)
include hA hmax hP hcnt

/-- A period counts `P` samples from its first one, whatever that one completed. -/
theorem squarePeriod_answers {Start : State → Prop} {words : List Word}
    (hfirst : Answers Start [.encSample (toWord32 A)] words (WaveAt A .up (toWord32 A).toInt 1)) :
    Answers Start (squarePeriod A P) words (WaveAt A .down (toWord32 (-A)).toInt P) := by
  obtain ⟨h, hh⟩ : ∃ h, P / 2 = h + 1 := ⟨P / 2 - 1, by omega⟩
  obtain ⟨l, hl⟩ : ∃ l, P - P / 2 = l + 1 := ⟨P - P / 2 - 1, by omega⟩
  have hsum : 1 + h + 1 + l = P := by omega
  have hturn : (toWord32 (-A)).toInt < (toWord32 A).toInt := by
    rw [toWord32_toInt (x := A) (by omega) (by omega), toWord32_toInt (by omega) (by omega)]
    omega
  have high := hfirst.cons (waveAt_holds (n := h) rfl (by omega))
  have low := (waveAt_fall (A := A) (c := 1 + h) hturn (by omega)).cons (waveAt_holds (n := l) rfl (by omega))
  have period := high.append low
  rw [hsum, List.append_nil, List.append_nil, List.append_nil] at period
  rw [squarePeriod, hl, hh]
  exact period

/-- The wave from the reset: the first period emits nothing, each later one the period before it, and the flush the
last. -/
theorem enc_square_answers (N : Nat) :
    Answers (WaveStart A) (expandPseudo (.encSquare A P N) ++ [.encFlush]) (List.replicate N (natWord P))
      fun _ => True := by
  cases N with
  | zero => exact waveStart_flush A
  | succ n =>
    have hhigh : (toWord32 A).toInt = A := toWord32_toInt (by omega) (by omega)
    have hlow : (toWord32 (-A)).toInt = -A := toWord32_toInt (by omega) (by omega)
    have first := squarePeriod_answers hA hmax hP hcnt (waveStart_arms hA hhigh)
    have next := squarePeriod_answers hA hmax hP hcnt
      (waveAt_rise (A := A) (w := toWord32 A) (ext := (toWord32 (-A)).toInt) (c := P) (by omega))
    have wave := (first.append (next.flatten_replicate n)).append (waveAt_flush (by omega))
    rw [List.flatten_replicate_singleton, List.nil_append, ← List.replicate_succ'] at wave
    exact wave

end

/-- Settles O28: the words of the wave, behind the `ENC.RESET` that starts it. -/
theorem constantPeriodGivesConstantPulses : Obligations.ConstantPeriodGivesConstantPulses := by
  intro s A P N hspec hP hcnt hA hmax hthresh hsens hminDur hctrl
  have reset : Answers (· = s) [.encReset] [] (WaveStart A) :=
    .single fun u hs => by
      subst hs
      exact ⟨rfl, ⟨hspec, rfl, hctrl, hsens, hminDur, hthresh⟩, rfl, rfl⟩
  have stream := reset.cons (enc_square_answers hA hmax hP hcnt N)
  obtain ⟨hwords, -⟩ := stream s rfl
  rw [pulsesOf, hwords, List.nil_append, List.map_replicate, natWord_toNat (by omega)]

end Sys2Proof.Proofs
end

section
/-! DEC command by command (42_decoder.md R602, R604): each outcome of `DEC.PULSE` and `DEC.PULL` as a whole next state,
and the samples a list of pulls sends. -/

namespace Sys2Proof.Proofs

open Sys2Proof.Machine Sys2Proof.Claims Sys2Proof.Laws

/-! ### The outcomes of `DEC.PULSE` -/

/-- The DEC unit after it takes a pulse of `n` samples (42_decoder.md R602). -/
def decStarted (d : Dec) (n : Nat) : Dec :=
  { d with
    plen := n
    rem := n
    curHalf := decHalf d.ctrl
    curSign := if decHalf d.ctrl then d.nextSign else d.curSign
    nextSign := if decHalf d.ctrl then oppositeSign d.nextSign else d.nextSign }

section
variable {s : State} {p : Word}

theorem exec_decPulse_closed (hmode : s.dec.mode ≠ .running) :
    exec (.decPulse p) s = .next { s with response := ⟨.badState, []⟩ } := by
  simp only [exec, execDecPulse, if_pos hmode, refuse_eq]

variable (hrun : s.dec.mode = .running)
include hrun

theorem exec_decPulse_busy (hrem : 0 < s.dec.rem) :
    exec (.decPulse p) s = .next { s with response := ⟨.busy, []⟩ } := by
  simp only [exec, execDecPulse, ne_eq, hrun, not_true_eq_false, if_false, if_pos hrem, refuse_eq]

variable (hrem : s.dec.rem = 0)
include hrem

theorem exec_decPulse_zero (hp : pulseOperand s.params p = 0) :
    exec (.decPulse p) s = .next { s with
      dec := { s.dec with fZero := true, mode := .faulted }, response := ⟨.zeroPulse, []⟩ } := by
  simp only [exec, execDecPulse, ne_eq, hrun, not_true_eq_false, if_false, if_neg (Nat.not_lt.mpr hrem.le), if_pos hp,
    raise_eq, faultEffect_decZeroPulse, faultStatus]

theorem exec_decPulse_starts (hp : pulseOperand s.params p ≠ 0) :
    exec (.decPulse p) s = .next { s with
      dec := decStarted s.dec (pulseOperand s.params p), response := ⟨.ok, []⟩ } := by
  simp only [exec, execDecPulse, ne_eq, hrun, not_true_eq_false, if_false, if_neg (Nat.not_lt.mpr hrem.le), if_neg hp,
    decStarted]
  split <;> rfl

end

/-- Settles O29: the four outcomes of `DEC.PULSE`. -/
theorem decPulseStartsThePulse : Obligations.DecPulseStartsThePulse := by
  intro s p hspec
  obtain ⟨-, -, hpulse, -⟩ := hspec
  have hoperand := pulseOperand_of_spec hpulse p
  refine ⟨exec_decPulse_closed, exec_decPulse_busy, fun hrun hrem hp => ?_, fun hrun hrem hp => ?_⟩
  · exact exec_decPulse_zero hrun hrem (by rw [hoperand, hp]; rfl)
  · have hne : pulseOperand s.params p ≠ 0 := by
      rw [hoperand]
      exact fun h => hp (BitVec.eq_of_toNat_eq h)
    rw [exec_decPulse_starts hrun hrem hne, hoperand]
    rfl

/-! ### The outcomes of `DEC.PULL` -/

/-- The next `m` samples of the current pulse (42_decoder.md R604). -/
def nextSamples (params : Config.Params) (d : Dec) (m : Nat) : List Word :=
  (List.range m).map fun k => sampleWord params (decOut params d (d.plen - (d.rem - k)))

@[simp] theorem nextSamples_length (params : Config.Params) (d : Dec) (m : Nat) :
    (nextSamples params d m).length = m := by
  simp [nextSamples]

theorem nextSamples_of_spec {params : Config.Params} (hspec : SpecConstants params) (d : Dec) (m : Nat) :
    nextSamples params d m =
      (List.range m).map fun k => BitVec.ofInt 32 (decOut params d (d.plen - (d.rem - k))) := by
  obtain ⟨hsample, -⟩ := hspec
  simp only [nextSamples, sampleWord_of_spec hsample]

/-- Samples taken in two parts are the samples taken at once: the second part resumes at the index the first one left
(42_decoder.md R601). -/
theorem nextSamples_add (params : Config.Params) (d : Dec) (m n : Nat) :
    nextSamples params d (m + n) = nextSamples params d m ++ nextSamples params { d with rem := d.rem - m } n := by
  rw [nextSamples, List.range_add, List.map_append, List.map_map]
  congr 1
  refine List.map_congr_left fun k _ => ?_
  rw [Function.comp_apply, ← Nat.sub_sub]
  rfl

theorem exec_decPull_closed {s : State} {n : Word} (hmode : s.dec.mode ≠ .running) :
    exec (.decPull n) s = .next { s with response := ⟨.badState, []⟩ } := by
  simp only [exec, execDecPull, if_pos hmode, refuse_eq]

theorem exec_decPull_running {s : State} {n : Word} (hrun : s.dec.mode = .running) :
    exec (.decPull n) s = .next { s with
      dec := { s.dec with rem := s.dec.rem - min n.toNat s.dec.rem }
      response := ⟨.ok, nextSamples s.params s.dec (min n.toNat s.dec.rem)⟩ } := by
  simp only [exec, execDecPull, ne_eq, hrun, not_true_eq_false, if_false, decPullLoop_eq, respond_eq, nextSamples]

/-- Settles O30: the two outcomes of `DEC.PULL`. -/
theorem decPullSendsTheNextSamples : Obligations.DecPullSendsTheNextSamples := by
  intro s n hspec
  refine ⟨exec_decPull_closed, fun hrun => ?_⟩
  rw [exec_decPull_running hrun, nextSamples_of_spec hspec]

/-! ### The samples of a list of pulls -/

theorem allWords_cons (i : Instr) (rest : List Instr) (s : State) :
    allWords (performAll (i :: rest) s).1 =
      (perform i s).response.words ++ allWords (performAll rest (perform i s)).1 := rfl

/-- Pulls send what one pull of all their counts sends (42_decoder.md R604). -/
theorem allWords_pulls (counts : List Word) {s : State} (hrun : s.dec.mode = .running) :
    allWords (performAll (pulls counts) s).1 =
      nextSamples s.params s.dec (min (counts.map BitVec.toNat).sum s.dec.rem) := by
  induction counts generalizing s with
  | nil => simp [pulls, performAll, allWords, nextSamples]
  | cons n rest ih =>
    have hcut : min ((n :: rest).map BitVec.toNat).sum s.dec.rem =
        min n.toNat s.dec.rem + min (rest.map BitVec.toNat).sum (s.dec.rem - min n.toNat s.dec.rem) := by
      rw [List.map_cons, List.sum_cons]
      omega
    have hpull := perform_of_exec (exec_decPull_running (n := n) hrun)
    rw [pulls, List.map_cons, allWords_cons, hpull, hcut, nextSamples_add]
    exact congrArg (_ ++ ·) (ih hrun)

/-- An accepted pulse and pulls for at least its samples send all of them and no more (42_decoder.md R622). -/
theorem allWords_decPulse_pulls {s : State} {p : Word} {counts : List Word} (hspec : SpecConstants s.params)
    (hrun : s.dec.mode = .running) (hrem : s.dec.rem = 0) (hp : p ≠ 0#32)
    (hcounts : p.toNat ≤ (counts.map BitVec.toNat).sum) :
    allWords (performAll (.decPulse p :: pulls counts) s).1 =
      nextSamples s.params (decStarted s.dec p.toNat) p.toNat := by
  obtain ⟨-, -, hpulse, -⟩ := hspec
  have hoperand := pulseOperand_of_spec hpulse p
  have hne : p.toNat ≠ 0 := fun h => hp (BitVec.eq_of_toNat_eq h)
  rw [allWords_cons, perform_of_exec (exec_decPulse_starts hrun hrem (hoperand ▸ hne)), hoperand,
    allWords_pulls counts (by exact hrun)]
  exact congrArg (nextSamples _ _) (Nat.min_eq_right hcounts)

theorem decPull_words_le {s t : State} {n : Word} (h : exec (.decPull n) s = .next t) :
    t.response.words.length ≤ s.dec.rem := by
  by_cases hrun : s.dec.mode = .running
  · rw [exec_decPull_running hrun] at h
    cases h
    simp
  · rw [exec_decPull_closed hrun] at h
    cases h
    exact Nat.zero_le _

/-- Settles O34: pulls in parts and one pull of the pulse send the same samples, by the samples of a list of pulls. -/
theorem pullsYieldThePulse : Obligations.PullsYieldThePulse := by
  refine ⟨fun s p counts hspec hrun hrem hp hcounts => ?_, fun s t n => decPull_words_le⟩
  have parts := allWords_decPulse_pulls hspec hrun hrem hp hcounts
  have whole := allWords_decPulse_pulls (counts := [p]) hspec hrun hrem hp (by simp)
  exact ⟨by rw [parts, nextSamples_length], parts.trans whole.symm⟩

end Sys2Proof.Proofs
end

section
/-! The waveform (42_decoder.md R606 to R612): the segment of a sample as the statements write it, its value in each
shape, and the bounds of the values. -/

namespace Sys2Proof.Proofs

open Sys2Proof.Machine Sys2Proof.Claims Sys2Proof.Laws

/-! ### The next sample -/

theorem decShape_eq (ctrl : Word) : decShape ctrl = ctrl.toNat % 4 := by simp [decShape]

theorem decPeak_eq (d : Dec) : decPeak d = ((d.volume.toNat % 2 ^ 31 : Nat) : Int) := by simp [decPeak, decVol]

/-- A level sign as a factor (42_decoder.md R606). -/
def signFactor : Sign → Int
  | .pos => 1
  | .neg => -1

theorem signed_eq_mul (σ : Sign) (v : Int) : signed σ v = signFactor σ * v := by
  cases σ with
  | pos => exact (Int.one_mul v).symm
  | neg => exact (Int.neg_one_mul v).symm

/-- The tuple `(from, to, j, L, lvl)` of a segment (42_decoder.md R606). -/
def Segment.tuple (g : Segment) : Int × Int × Nat × Nat × Int := (g.start, g.stop, g.index, g.len, g.level)

theorem pulseSegment_eq (d : Dec) (k : Nat) :
    pulseSegment d.curHalf (signFactor d.curSign) (decPeak d) d.plen k = Segment.tuple (decSegment d k) := by
  rw [pulseSegment, decSegment, ← signed_eq_mul]
  cases d.curHalf with
  | true => rfl
  | false =>
    by_cases hfirst : k < d.plen / 2
    · simp only [Bool.false_eq_true, if_false, if_pos hfirst]
      rfl
    · simp only [Bool.false_eq_true, if_false, if_neg hfirst]
      rfl

/-- The segment of the next sample, as the statements write it, is the model's. -/
theorem nextSegment_eq (d : Dec) : nextSegment d = Segment.tuple (decSegment d (d.plen - d.rem)) := by
  rw [← pulseSegment_eq, decPeak_eq]
  rfl

/-- A pull of one sample answers the value of the next sample's segment (42_decoder.md R604, R607). -/
theorem exec_decPull_one {s : State} (hspec : SpecConstants s.params) (hrun : s.dec.mode = .running)
    (hrem : 0 < s.dec.rem) :
    exec (.decPull 1#32) s = .next { s with
      dec := { s.dec with rem := s.dec.rem - 1 }
      response := ⟨.ok, [outputWord s.dec
        (shapeValue s.params (decShape s.dec.ctrl) (decSegment s.dec (s.dec.plen - s.dec.rem)))]⟩ } := by
  have hone : min (1#32).toNat s.dec.rem = 1 := Nat.min_eq_left hrem
  rw [exec_decPull_running hrun, hone, nextSamples_of_spec hspec]
  rfl

theorem shapeValue_square {params : Config.Params} {shape : Nat} (hshape : shape = 0) (g : Segment) :
    shapeValue params shape g = g.level := by
  simp [shapeValue, hshape]

theorem shapeValue_triangle {params : Config.Params} {shape : Nat} (hshape : shape = 1) (g : Segment) :
    shapeValue params shape g = triangleValue g := if_pos hshape

theorem shapeValue_sine {params : Config.Params} {shape : Nat} (hshape : shape = 2) (g : Segment) :
    shapeValue params shape g =
      if params.sineSupported then sineRamp g.start g.stop g.index g.len else g.level := by
  simp [shapeValue, hshape]

/-- Settles O31: the value of the next segment in the square and the triangle shape. -/
theorem pulledSampleHasTheRulesValue : Obligations.PulledSampleHasTheRulesValue := by
  intro s hspec hrun hrem _
  rw [nextSegment_eq, exec_decPull_one hspec hrun hrem, decShape_eq]
  refine ⟨fun hshape => ?_, fun hshape => ?_⟩
  · rw [shapeValue_square hshape]
  · rw [shapeValue_triangle hshape]
    rfl

/-- The model's ramp lies between its two ends (42_decoder.md R612). -/
theorem sineRamp_mem (a b : Int) (j L : Nat) : min a b ≤ sineRamp a b j L ∧ sineRamp a b j L ≤ max a b := by
  rw [sineRamp]
  split
  · exact ⟨min_le_right a b, le_max_right a b⟩
  · exact ⟨le_max_left _ _, max_le min_le_max (min_le_left _ _)⟩

/-- Settles O32: the model's ramp meets the contract, and the next sample is its value or the square level. -/
theorem sineKeepsItsContract : Obligations.SineKeepsItsContract := by
  refine ⟨sineRamp, sineRamp_mem, fun a b j L hlast => if_pos hlast, fun s hspec hrun hrem _ hshape => ?_⟩
  rw [nextSegment_eq, exec_decPull_one hspec hrun hrem, decShape_eq, shapeValue_sine hshape]
  rfl

/-! ### The bounds of a sample -/

/-- A segment of a pulse of peak `V`: it ramps from one extreme to the other, its level is the end of the ramp, and its
index is one of its samples (42_decoder.md R606). -/
structure SegmentOk (V : Nat) (g : Segment) : Prop where
  start_eq : g.start = -g.stop
  level_eq : g.level = g.stop
  stop_natAbs : g.stop.natAbs = V
  index_lt : g.index < g.len

theorem decSegment_ok {d : Dec} {k : Nat} (hk : k < d.plen) : SegmentOk (decVol d.volume) (decSegment d k) := by
  have hpeak : (decPeak d).natAbs = decVol d.volume := Int.natAbs_natCast _
  rw [decSegment]
  dsimp only
  split
  · have hsigned : (signed d.curSign (decPeak d)).natAbs = decVol d.volume := by
      cases d.curSign with
      | pos => exact hpeak
      | neg => exact (Int.natAbs_neg _).trans hpeak
    exact ⟨rfl, rfl, hsigned, hk⟩
  · split
    · next hfirst => exact ⟨rfl, rfl, hpeak, hfirst⟩
    · exact ⟨(Int.neg_neg _).symm, rfl, (Int.natAbs_neg _).trans hpeak, by dsimp only; omega⟩

/-- A fraction of at most 1 of a distance, truncated, is no more than it. -/
theorem mul_tdiv_bounds {x : Int} {n L : Nat} (hx : 0 ≤ x) (hn : n ≤ L) :
    0 ≤ Int.tdiv (x * n) L ∧ Int.tdiv (x * n) L ≤ x := by
  have hxn : 0 ≤ x * n := Int.mul_nonneg hx (Int.natCast_nonneg n)
  have hle : x * n ≤ x * L := Int.mul_le_mul_of_nonneg_left (Int.ofNat_le.mpr hn) hx
  refine ⟨Int.tdiv_nonneg hxn (Int.natCast_nonneg L), ?_⟩
  rw [Int.tdiv_eq_ediv_of_nonneg hxn]
  obtain rfl | hL := Nat.eq_zero_or_pos L
  · simpa using hx
  · exact Int.ediv_le_of_le_mul (Int.natCast_pos.mpr hL) hle

section
variable {V : Nat} {g : Segment} (hok : SegmentOk V g)
include hok

/-- The triangle steps from one extreme towards the other and no further (42_decoder.md R610). -/
theorem triangleValue_natAbs_le : (triangleValue g).natAbs ≤ V := by
  obtain ⟨hstart, -, rfl, hindex⟩ := hok
  have hn : g.index + 1 ≤ g.len := hindex
  have hspan : g.stop - g.start = 2 * g.stop := by omega
  rw [triangleValue, hspan, hstart]
  obtain hup | hdown := Int.le_total 0 g.stop
  · have hbounds := mul_tdiv_bounds (x := 2 * g.stop) (by omega) hn
    push_cast at hbounds
    omega
  · have hbounds := mul_tdiv_bounds (x := -(2 * g.stop)) (by omega) hn
    rw [Int.neg_mul, Int.neg_tdiv] at hbounds
    push_cast at hbounds
    omega

theorem sineRamp_natAbs_le : (sineRamp g.start g.stop g.index g.len).natAbs ≤ V := by
  have hramp := sineRamp_mem g.start g.stop g.index g.len
  obtain ⟨hstart, -, rfl, -⟩ := hok
  omega

theorem shapeValue_natAbs_le (params : Config.Params) (shape : Nat) : (shapeValue params shape g).natAbs ≤ V := by
  rw [shapeValue]
  split
  · exact triangleValue_natAbs_le hok
  · split
    · exact sineRamp_natAbs_le hok
    · rw [hok.level_eq, hok.stop_natAbs]

end

/-- Inversion keeps the magnitude, so every sample of a pulse is bounded by the volume (42_decoder.md R607). -/
theorem decOut_natAbs_le (params : Config.Params) {d : Dec} {k : Nat} (hk : k < d.plen) :
    (decOut params d k).natAbs ≤ decVol d.volume := by
  have hvalue := shapeValue_natAbs_le (decSegment_ok hk) params (decShape d.ctrl)
  rw [decOut]
  split
  · rwa [Int.natAbs_neg]
  · exact hvalue

theorem nextSamples_natAbs_le {params : Config.Params} (hspec : SpecConstants params) {d : Dec}
    (hrem : d.rem ≤ d.plen) {m : Nat} (hm : m ≤ d.rem) :
    ∀ w ∈ nextSamples params d m, w.toInt.natAbs ≤ decVol d.volume := by
  rw [nextSamples_of_spec hspec, List.forall_mem_map]
  intro k hk
  have hk := List.mem_range.mp hk
  have hout := decOut_natAbs_le params (d := d) (k := d.plen - (d.rem - k)) (by omega)
  have hvol : decVol d.volume < 2 ^ 31 := BitVec.isLt _
  rwa [← toWord32, toWord32_toInt (by omega) (by omega)]

/-- Settles O33: the words of `DEC.PULL` are samples of the current pulse, and DEC's invariant keeps their indices
inside it. -/
theorem samplesStayWithinVolume : Obligations.SamplesStayWithinVolume := by
  intro s t n hspec hok h
  have hvol : decVol s.dec.volume = s.dec.volume.toNat % 2 ^ 31 := by simp [decVol]
  by_cases hrun : s.dec.mode = .running
  · rw [exec_decPull_running hrun] at h
    cases h
    exact hvol ▸ nextSamples_natAbs_le hspec hok.rem_le (Nat.min_le_right _ _)
  · rw [exec_decPull_closed hrun] at h
    cases h
    exact nofun

end Sys2Proof.Proofs
end

section
/-! The square round trip (42_decoder.md R623): the samples DEC makes of a list of pulses, and ENC over them. In
full-wave mode each pulse is a period of the square wave (41_encoder.md R532). In half-wave mode only the turns differ,
so every other step is carried over from the full-wave encoder. -/

namespace Sys2Proof.Proofs

open Sys2Proof.Machine Sys2Proof.Claims Sys2Proof.Laws

/-! ### The samples of a list of pulses -/

/-- The level sign of the pulse behind one of sign `σ` (42_decoder.md R602). -/
def signAfter (half : Bool) (σ : Sign) : Sign := if half then oppositeSign σ else σ

/-- The square samples of a pulse of length `P` at volume `V`, of sign `σ` in half-wave mode (42_decoder.md R606,
R608). -/
def squareSamples (half : Bool) (V : Nat) (σ : Sign) (P : Nat) : List Word :=
  if half then List.replicate P (toWord32 (signed σ V))
  else List.replicate (P / 2) (toWord32 V) ++ List.replicate (P - P / 2) (toWord32 (-V))

/-- The square samples of a list of pulses, the first of sign `σ` in half-wave mode. -/
def squareStream (half : Bool) (V : Nat) : Sign → List Word → List Word
  | _, [] => []
  | σ, p :: rest => squareSamples half V σ p.toNat ++ squareStream half V (signAfter half σ) rest

/-- DEC_CTRL of the square shape without inversion (10_state.md R120). -/
def squareCtrl (half : Bool) : Word := if half then 8#32 else 0#32

theorem squareCtrl_fields (half : Bool) :
    decShape (squareCtrl half) = 0 ∧ decInvert (squareCtrl half) = false ∧ decHalf (squareCtrl half) = half := by
  cases half with
  | true => decide
  | false => decide

/-- DEC between two pulses, beside an encoder `e`; in half-wave mode the next pulse has the sign `σ`. -/
structure SquareIdle (e : Enc) (half : Bool) (V : Nat) (σ : Sign) (s : State) : Prop where
  spec : SpecConstants s.params
  enc : s.enc = e
  running : s.dec.mode = .running
  idle : s.dec.rem = 0
  ctrl : s.dec.ctrl = squareCtrl half
  peak : decPeak s.dec = V
  sign : s.dec.nextSign = σ

/-- A range cut at `h` takes one value below it and another from it on. -/
theorem map_range_ite_lt {α : Type} (a b : α) {h n : Nat} (hle : h ≤ n) :
    ((List.range n).map fun k => if k < h then a else b) = List.replicate h a ++ List.replicate (n - h) b := by
  obtain ⟨l, rfl⟩ := Nat.exists_eq_add_of_le hle
  rw [List.range_add, List.map_append, List.map_map, Nat.add_sub_cancel_left]
  congr 1
  · rw [List.eq_replicate_iff]
    simp +contextual
  · simp [Function.comp_def]

/-- The samples of a pulse just taken are those of its indices in order (42_decoder.md R604). -/
theorem nextSamples_started {params : Config.Params} (hspec : SpecConstants params) (d : Dec) (P : Nat) :
    nextSamples params (decStarted d P) P =
      (List.range P).map fun k => toWord32 (decOut params (decStarted d P) k) := by
  rw [nextSamples_of_spec hspec]
  refine List.map_congr_left fun k hk => ?_
  have hindex : P - (P - k) = k := Nat.sub_sub_self (List.mem_range.mp hk).le
  exact congrArg (fun k => toWord32 (decOut params (decStarted d P) k)) hindex

namespace SquareIdle

variable {e : Enc} {half : Bool} {V : Nat} {σ : Sign} {s : State}

theorem decOut_started (hs : SquareIdle e half V σ s) (P k : Nat) :
    decOut s.params (decStarted s.dec P) k = if half then signed σ V else if k < P / 2 then (V : Int) else -V := by
  obtain ⟨-, -, -, -, ctrl, peak, rfl⟩ := hs
  obtain ⟨hshape, hinvert, hhalf⟩ := squareCtrl_fields half
  rw [← ctrl] at hshape hinvert hhalf
  have hshape : decShape (decStarted s.dec P).ctrl = 0 := hshape
  have hpeak : decPeak (decStarted s.dec P) = V := peak
  have hlevel : decOut s.params (decStarted s.dec P) k = (decSegment (decStarted s.dec P) k).level := by
    rw [decOut, shapeValue_square hshape]
    simp [decStarted, hinvert]
  rw [hlevel, decSegment, hpeak]
  cases half with
  | true => simp [decStarted, hhalf]
  | false =>
    simp only [decStarted, hhalf, Bool.false_eq_true, if_false]
    split <;> rfl

/-- A pulse taken is sent as its two half cycles, or in half-wave mode as the one of its sign. -/
theorem nextSamples_started (hs : SquareIdle e half V σ s) (P : Nat) :
    nextSamples s.params (decStarted s.dec P) P = squareSamples half V σ P := by
  have hsamples := Proofs.nextSamples_started hs.spec s.dec P
  simp only [hs.decOut_started] at hsamples
  rw [hsamples, squareSamples]
  cases half with
  | true => simp
  | false =>
    simp only [Bool.false_eq_true, if_false, apply_ite toWord32]
    exact map_range_ite_lt _ _ (Nat.div_le_self P 2)

/-- A pulse offered and pulled whole. -/
theorem answers_pulse {p : Word} (hp : p ≠ 0#32) :
    Answers (SquareIdle e half V σ) [.decPulse p, .decPull p] (squareSamples half V σ p.toNat)
      (SquareIdle e half V (signAfter half σ)) := by
  intro s hs
  have hwords := allWords_decPulse_pulls (counts := [p]) hs.spec hs.running hs.idle hp (by simp)
  refine ⟨hwords.trans (hs.nextSamples_started _), ?_⟩
  obtain ⟨spec, henc, running, idle, ctrl, peak, rfl⟩ := hs
  obtain ⟨-, -, hpulse, -⟩ := id spec
  obtain ⟨-, -, hhalf⟩ := squareCtrl_fields half
  have hoperand := pulseOperand_of_spec hpulse p
  have hne : p.toNat ≠ 0 := fun h => hp (BitVec.eq_of_toNat_eq h)
  have hstart := perform_of_exec (exec_decPulse_starts running idle (hoperand ▸ hne))
  change SquareIdle _ _ _ _ (perform (.decPull p) (perform (.decPulse p) s))
  rw [hstart, hoperand, perform_of_exec (exec_decPull_running (by exact running))]
  refine ⟨spec, henc, running, ?_, ctrl, peak, ?_⟩
  · change p.toNat - min p.toNat p.toNat = 0
    omega
  · change (if decHalf s.dec.ctrl then oppositeSign s.dec.nextSign else s.dec.nextSign) = _
    rw [ctrl, hhalf, signAfter]

theorem answers_play {pulses : List Word} (hp : ∀ p ∈ pulses, p ≠ 0#32) :
    Answers (SquareIdle e half V σ) (play pulses) (squareStream half V σ pulses)
      fun s => SpecConstants s.params ∧ s.enc = e := by
  induction pulses generalizing σ with
  | nil => exact fun s hs => ⟨rfl, hs.spec, hs.enc⟩
  | cons p rest ih =>
    obtain ⟨hfirst, hrest⟩ := List.forall_mem_cons.mp hp
    exact (answers_pulse hfirst).append (ih hrest)

end SquareIdle

/-! ### The half-wave encoder -/

/-- The state with the encoder in full-wave mode. -/
def fullWave (s : State) : State := { s with enc := { s.enc with ctrl := 0#32 } }

/-- A half-wave encoder that meets a condition but for its mode. -/
def HalfWave (P : State → Prop) (s : State) : Prop := s.enc.ctrl = 2#32 ∧ P (fullWave s)

/-- The detector reads no mode: `HALF` only says which turns are boundaries (41_encoder.md R509, R510). -/
theorem sampleTracked_withCtrl (e : Enc) (x : Int) (ctrl : Word) :
    sampleTracked { e with ctrl := ctrl } x = { sampleTracked e x with ctrl := ctrl } := by
  unfold sampleTracked
  by_cases harmed : e.armed = true
  · rw [if_pos harmed, if_pos harmed]
    rfl
  · rw [if_neg harmed, if_neg harmed]
    by_cases hx : e.thresh.toNat < x.natAbs
    · rw [if_pos hx, if_pos hx]
    · rw [if_neg hx, if_neg hx]

theorem sampleInput_halfWave {e : Enc} (h : e.ctrl = 2#32) (w : Word) : sampleInput e w = w.toInt := by
  simp [sampleInput, h]

/-- In half-wave mode every turn is a boundary (41_encoder.md R510). -/
theorem sampleEmits_halfWave {e : Enc} (h : e.ctrl = 2#32) (hminDur : e.minDur = 0#32) (x : Int) :
    sampleEmits e x = sampleTurns e x := by
  simp [sampleEmits, h, hminDur]

section
variable {A : Nat} {P Q : State → Prop} {w : Word}

/-- A sample that does not turn the detector acts in half-wave mode as in full-wave mode. -/
theorem Answers.halfWave (h : Answers P [.encSample w] [] Q)
    (hP : ∀ s, P s → WaveConfig A s ∧ s.enc.count ≠ 2 ^ 32 - 1 ∧ sampleTurns s.enc w.toInt = false) :
    Answers (HalfWave P) [.encSample w] [] (HalfWave Q) := by
  refine .single fun s hs => ?_
  obtain ⟨hhalf, hfull⟩ := hs
  obtain ⟨config, hroom, hturn⟩ := hP _ hfull
  have hinput := sampleInput_halfWave hhalf w
  have hinput' : sampleInput (fullWave s).enc w = w.toInt := config.sampleInput w
  have hstep := perform_of_exec (exec_encSample_counts (s := s) (sample := w) config.spec config.running
    (by rw [hinput, sampleEmits_halfWave hhalf config.minDur]; exact hturn) hroom)
  have hstep' := perform_of_exec (exec_encSample_counts (s := fullWave s) (sample := w) config.spec config.running
    (by simp [sampleEmits, hinput', hturn]) hroom)
  have hcommute : perform (.encSample w) (fullWave s) = fullWave (perform (.encSample w) s) := by
    rw [hstep, hstep', hinput, hinput']
    simp only [fullWave, sampleTracked_withCtrl]
  obtain ⟨hctrl, -⟩ := sampleTracked_frame s.enc w.toInt
  obtain ⟨-, hq⟩ := h _ hfull
  refine ⟨by rw [hstep], ?_, ?_⟩
  · rw [hstep, hinput]
    exact hctrl.trans hhalf
  · rw [← hcommute]
    exact hq

theorem Answers.halfWave_flush {words : List Word} (h : Answers P [.encFlush] words fun _ => True)
    (hP : ∀ s, P s → s.enc.mode = .running) : Answers (HalfWave P) [.encFlush] words fun _ => True := by
  refine .single fun s hs => ⟨?_, trivial⟩
  obtain ⟨-, hfull⟩ := hs
  have hrun : (fullWave s).enc.mode = .running := hP _ hfull
  have hsame : (perform .encFlush s).response = (perform .encFlush (fullWave s)).response := by
    rw [perform_of_exec (exec_encFlush_running (s := s) hrun), perform_of_exec (exec_encFlush_running hrun)]
    rfl
  obtain ⟨hwords, -⟩ := h _ hfull
  rw [hsame, ← hwords]
  exact (List.append_nil _).symm

/-- A move back is a turn, and so in half-wave mode a boundary in either direction (41_encoder.md R510, R511). -/
theorem halfWave_turn {d : Dir} {ext : Int} {c : Nat}
    (hback : ∀ s, WaveAt A d ext c s → 0 < sampleMove s.enc w.toInt) :
    Answers (HalfWave (WaveAt A d ext c)) [.encSample w] [natWord c]
      (HalfWave (WaveAt A (oppositeDir d) w.toInt 1)) := by
  refine .single fun s hs => ?_
  obtain ⟨hhalf, hwave⟩ := hs
  obtain ⟨hturn, hnext⟩ := hwave.turns (hback _ hwave)
  rw [hwave.sampleInput] at hturn hnext
  have hinput := sampleInput_halfWave hhalf w
  have hemits : sampleEmits s.enc (sampleInput s.enc w) = true := by
    rw [hinput, sampleEmits_halfWave hhalf hwave.minDur]
    exact hturn
  have hcount : s.enc.count = c := hwave.count
  obtain ⟨hctrl, -⟩ := sampleTracked_frame s.enc w.toInt
  rw [perform_of_exec (exec_encSample_emits (s := s) hwave.spec hwave.running hemits), hinput, hcount]
  refine ⟨rfl, hctrl.trans hhalf, ?_⟩
  have hfull := hnext 1 ⟨.ok, [natWord c]⟩
  rw [show (fullWave s).enc = { s.enc with ctrl := 0#32 } from rfl, sampleTracked_withCtrl] at hfull
  exact hfull

end

/-- The direction in which a level of a sign is an extremum. -/
def signDir : Sign → Dir
  | .pos => .up
  | .neg => .down

/-- Inside a half-wave pulse of sign `σ`, `c` samples from its start. -/
def HalfAt (V : Nat) (σ : Sign) (c : Nat) : State → Prop := HalfWave (WaveAt V (signDir σ) (signed σ V) c)

section
variable {V : Nat} (hV : 0 < V) (hmax : V ≤ 2 ^ 31 - 1)
include hmax

theorem signed_toWord32 (σ : Sign) : (toWord32 (signed σ V)).toInt = signed σ V := by
  cases σ with
  | pos => exact toWord32_toInt (by simp only [signed]; omega) (by simp only [signed]; omega)
  | neg => exact toWord32_toInt (by simp only [signed]; omega) (by simp only [signed]; omega)

theorem halfAt_hold {σ : Sign} {c : Nat} (hroom : c ≠ 2 ^ 32 - 1) :
    Answers (HalfAt V σ c) [.encSample (toWord32 (signed σ V))] [] (HalfAt V σ (c + 1)) := by
  have hword := signed_toWord32 hmax σ
  refine (waveAt_hold hword hroom).halfWave fun s hs => ⟨hs.toWaveConfig, hs.count ▸ hroom, ?_⟩
  refine sampleTurns_of_forward ?_
  rw [sampleMove, hs.ext, hword]
  split <;> omega

theorem halfAt_holds {σ : Sign} {c n : Nat} (hroom : c + n ≤ 2 ^ 32 - 1) :
    Answers (HalfAt V σ c) (List.replicate n (.encSample (toWord32 (signed σ V)))) [] (HalfAt V σ (c + n)) := by
  induction n generalizing c with
  | zero => exact .nil _
  | succ n ih =>
    rw [← Nat.add_assoc, Nat.add_right_comm]
    exact (halfAt_hold hmax (by omega)).cons (ih (by omega))

/-- A half-wave pulse counts its samples from its first one, whatever that one completed. -/
theorem halfPulse_answers {Start : State → Prop} {words : List Word} {σ : Sign} {P : Nat} (hP : 1 ≤ P)
    (hcnt : P ≤ 2 ^ 32 - 1)
    (hfirst : Answers Start [.encSample (toWord32 (signed σ V))] words (HalfAt V σ 1)) :
    Answers Start ((squareSamples true V σ P).map .encSample) words (HalfAt V σ P) := by
  obtain ⟨n, rfl⟩ := Nat.exists_eq_add_of_le hP
  have pulse := hfirst.cons (halfAt_holds (n := n) hmax hcnt)
  rw [List.append_nil] at pulse
  rw [squareSamples, if_pos rfl, List.map_replicate, List.replicate_add]
  exact pulse

include hV

/-- The first sample of a stream arms the encoder upwards (41_encoder.md R507). -/
theorem halfStart_arms :
    Answers (HalfWave (WaveStart V)) [.encSample (toWord32 (signed .pos V))] [] (HalfAt V .pos 1) := by
  have hword := signed_toWord32 hmax .pos
  have arms := waveStart_arms hV hword
  rw [hword] at arms
  exact arms.halfWave fun s hs => ⟨hs.toWaveConfig, by rw [hs.count]; decide, by simp [sampleTurns, hs.unarmed]⟩

/-- The first sample of a pulse of the other sign is a turn, a boundary in both directions, which emits the count
(41_encoder.md R510, R511). -/
theorem halfAt_turn {σ : Sign} {c : Nat} :
    Answers (HalfAt V σ c) [.encSample (toWord32 (signed (oppositeSign σ) V))] [natWord c]
      (HalfAt V (oppositeSign σ) 1) := by
  have hword := signed_toWord32 hmax (oppositeSign σ)
  have hdir : oppositeDir (signDir σ) = signDir (oppositeSign σ) := by cases σ <;> rfl
  have hback : ∀ s, WaveAt V (signDir σ) (signed σ V) c s →
      0 < sampleMove s.enc (toWord32 (signed (oppositeSign σ) V)).toInt := by
    intro s hs
    rw [sampleMove, hs.dir, hs.ext, hword]
    cases σ with
    | pos => simp only [signDir, signed, oppositeSign]; omega
    | neg => simp only [signDir, signed, oppositeSign]; omega
  have turn := halfWave_turn hback
  rw [hword, hdir] at turn
  exact turn

theorem fullPulse_answers {Start : State → Prop} {words : List Word} {σ : Sign} {P : Nat} (hP : 2 ≤ P)
    (hcnt : P ≤ 2 ^ 32 - 1)
    (hfirst : Answers Start [.encSample (toWord32 V)] words (WaveAt V .up (toWord32 V).toInt 1)) :
    Answers Start ((squareSamples false V σ P).map .encSample) words (WaveAt V .down (toWord32 (-V)).toInt P) := by
  have period := squarePeriod_answers hV hmax hP hcnt hfirst
  rw [squareSamples, if_neg Bool.false_ne_true, List.map_append, List.map_replicate, List.map_replicate]
  exact period

end

/-! ### The encoder over the samples of the pulses -/

/-- A reset encoder of either mode. -/
def EncStart (V : Nat) : Bool → State → Prop
  | true => HalfWave (WaveStart V)
  | false => WaveStart V

/-- An encoder of either mode behind a pulse of `c` samples, of sign `σ` in half-wave mode. -/
def EncBehind (V : Nat) (σ : Sign) (c : Nat) : Bool → State → Prop
  | true => HalfAt V σ c
  | false => WaveAt V .down (toWord32 (-V)).toInt c

/-- The shortest pulse the round trip keeps (42_decoder.md R623). -/
def shortestPulse (half : Bool) : Nat := if half then 1 else 2

theorem shortestPulse_pos (half : Bool) : 0 < shortestPulse half := by cases half <;> decide

theorem encStart_flush (V : Nat) (half : Bool) : Answers (EncStart V half) [.encFlush] [] fun _ => True := by
  cases half with
  | true => exact (waveStart_flush V).halfWave_flush fun _ hs => hs.running
  | false => exact waveStart_flush V

/-- The flush emits the last pulse (41_encoder.md R520). -/
theorem encBehind_flush {V : Nat} {half : Bool} {σ : Sign} {c : Nat} (hc : 0 < c) :
    Answers (EncBehind V σ c half) [.encFlush] [natWord c] fun _ => True := by
  cases half with
  | true => exact (waveAt_flush hc).halfWave_flush fun _ hs => hs.running
  | false => exact waveAt_flush hc

section
variable {V : Nat} {half : Bool} (hV : 0 < V) (hmax : V ≤ 2 ^ 31 - 1)
include hV hmax

theorem encStart_pulse {P : Nat} (hP : shortestPulse half ≤ P) (hcnt : P ≤ 2 ^ 32 - 1) :
    Answers (EncStart V half) ((squareSamples half V .pos P).map .encSample) [] (EncBehind V .pos P half) := by
  cases half with
  | true => exact halfPulse_answers hmax hP hcnt (halfStart_arms hV hmax)
  | false => exact fullPulse_answers hV hmax hP hcnt (waveStart_arms hV (signed_toWord32 hmax .pos))

/-- The first sample of a pulse completes the one before it. -/
theorem encBehind_pulse {σ : Sign} {c P : Nat} (hP : shortestPulse half ≤ P) (hcnt : P ≤ 2 ^ 32 - 1) :
    Answers (EncBehind V σ c half) ((squareSamples half V (signAfter half σ) P).map .encSample) [natWord c]
      (EncBehind V (signAfter half σ) P half) := by
  cases half with
  | true => exact halfPulse_answers hmax hP hcnt (halfAt_turn hV hmax)
  | false =>
    have hhigh : (toWord32 V).toInt = V := signed_toWord32 hmax .pos
    have hlow : (toWord32 (-V)).toInt = -V := signed_toWord32 hmax .neg
    exact fullPulse_answers hV hmax hP hcnt (waveAt_rise (by omega))

/-- Behind a pulse, a flushed stream emits that pulse and its own (42_decoder.md R623). -/
theorem encBehind_stream {pulses : List Word} (hpulses : ∀ p ∈ pulses, shortestPulse half ≤ p.toNat) {σ : Sign}
    {c : Nat} (hc : 0 < c) :
    Answers (EncBehind V σ c half) ((squareStream half V (signAfter half σ) pulses).map .encSample ++ [.encFlush])
      (natWord c :: pulses) fun _ => True := by
  induction pulses generalizing σ c with
  | nil => exact encBehind_flush hc
  | cons p rest ih =>
    obtain ⟨hfirst, hrest⟩ := List.forall_mem_cons.mp hpulses
    have pulse := encBehind_pulse (σ := σ) (c := c) hV hmax hfirst (by omega)
    have stream := pulse.append (ih hrest ((shortestPulse_pos half).trans_le hfirst))
    rw [squareStream, List.map_append, List.append_assoc]
    simpa [natWord] using stream

theorem encStart_stream {pulses : List Word} (hpulses : ∀ p ∈ pulses, shortestPulse half ≤ p.toNat) :
    Answers (EncStart V half) ((squareStream half V .pos pulses).map .encSample ++ [.encFlush]) pulses
      fun _ => True := by
  cases pulses with
  | nil => exact encStart_flush V half
  | cons p rest =>
    obtain ⟨hfirst, hrest⟩ := List.forall_mem_cons.mp hpulses
    have pulse := encStart_pulse hV hmax hfirst (by omega)
    have stream := pulse.append (encBehind_stream hV hmax hrest ((shortestPulse_pos half).trans_le hfirst))
    rw [squareStream, List.map_append, List.append_assoc]
    simpa [natWord] using stream

end

/-- `ENC.RESET` leaves the configured encoder at the start of a stream (41_encoder.md R525). -/
theorem encReset_answers {V : Nat} {half : Bool} {e : Enc} (hctrl : e.ctrl = if half then 2#32 else 0#32)
    (hsens : e.sens = 100#32) (hminDur : e.minDur = 0#32) (hthresh : e.thresh.toNat < V) :
    Answers (fun s => SpecConstants s.params ∧ s.enc = e) [.encReset] [] (EncStart V half) := by
  refine .single fun s hs => ?_
  obtain ⟨spec, rfl⟩ := hs
  cases half with
  | true => exact ⟨rfl, hctrl, ⟨spec, rfl, rfl, hsens, hminDur, hthresh⟩, rfl, rfl⟩
  | false => exact ⟨rfl, ⟨spec, rfl, hctrl, hsens, hminDur, hthresh⟩, rfl, rfl⟩

/-- `DEC.RESET` leaves the decoder idle, its first pulse high in half-wave mode (42_decoder.md R620). -/
theorem decReset_answers {s : State} {half : Bool} {V : Nat} (hspec : SpecConstants s.params)
    (hctrl : s.dec.ctrl = squareCtrl half) (hvolume : s.dec.volume.toNat % 2 ^ 31 = V) :
    Answers (· = s) [.decReset] [] (SquareIdle s.enc half V .pos) := by
  have hpeak : decPeak s.dec = V := hvolume ▸ decPeak_eq s.dec
  refine .single fun t ht => ?_
  subst ht
  exact ⟨rfl, hspec, rfl, rfl, rfl, hctrl, hpeak, rfl⟩

/-- Settles O35: the samples DEC makes of the pulses from its reset, and what ENC makes of those from its own. -/
theorem squareWaveRoundTrip : Obligations.SquareWaveRoundTrip := by
  intro s half pulses hspec hdec henc hV hthresh hsens hminDur hpulses
  have hshortest : ∀ p ∈ pulses, shortestPulse half ≤ p.toNat := hpulses
  have hnonzero : ∀ p ∈ pulses, p ≠ 0#32 := by
    rintro p hp rfl
    exact absurd (hshortest _ hp) (Nat.not_le.mpr (shortestPulse_pos half))
  have decode := (decReset_answers hspec hdec rfl).cons (SquareIdle.answers_play hnonzero)
  have encode := (encReset_answers henc hsens hminDur hthresh).cons (encStart_stream hV (by omega) hshortest)
  obtain ⟨hsamples, hplayed⟩ := decode s rfl
  obtain ⟨hwords, -⟩ := encode _ hplayed
  dsimp only
  rw [pulsesOf, hsamples, List.nil_append, hwords, List.nil_append]

end Sys2Proof.Proofs
end

section
/-! The bytes OVF writes for a pulse (43_overflow_codec.md R710, R712, R714): the machine's encoder writes the bytes the
rules give, which `Claims.pulseBytes` says apart from it. -/

namespace Sys2Proof.Proofs

open Sys2Proof.Machine Sys2Proof.Claims Sys2Proof.Laws

/-- `LE_n`, a byte at each offset, is the bytes one division at a time (00_scope.md R12). -/
theorem littleEndian_eq_leBytes (n v : Nat) : littleEndian n v = leBytes n v := by
  induction n generalizing v with
  | zero => rfl
  | succ n ih =>
    have hbyte : ∀ i, v / 2 ^ (8 * (i + 1)) = v / 256 / 2 ^ (8 * i) := fun i => by
      rw [Nat.div_div_eq_div_mul, Nat.mul_succ, Nat.pow_add, Nat.mul_comm]
    rw [leBytes, ← ih, littleEndian, littleEndian, List.range_succ_eq_map, List.map_cons, List.map_map]
    simp [Function.comp_def, hbyte]

/-! ### TAP v0 -/

section
variable {params : Config.Params} {p : Nat}

/-- A pulse below the scale is the byte 1, which stands for 8 (43_overflow_codec.md R712). -/
theorem encodeTapV0_below_scale (hspec : SpecConstants params) (hp : p < 8) :
    encodeTapV0 params p = ([1#8], false) := by
  obtain ⟨-, -, -, -, hscale, -⟩ := hspec
  have hq : p / 8 = 0 := Nat.div_eq_of_lt hp
  simp [encodeTapV0, hscale, hq]

/-- A pulse of 8 to 2047 is its quotient in one byte (43_overflow_codec.md R712). -/
theorem encodeTapV0_narrow (hspec : SpecConstants params) (hp : 8 ≤ p) (hp' : p < 2048) :
    encodeTapV0 params p = ([BitVec.ofNat 8 (p / 8)], decide (8 ∣ p)) := by
  obtain ⟨-, -, -, -, hscale, -⟩ := hspec
  have hq : 1 ≤ p / 8 ∧ p / 8 ≤ 0xFF := by omega
  rw [encodeTapV0, hscale, if_pos hq]
  simp only [Nat.dvd_iff_mod_eq_zero]

/-- A pulse of 2048 or more is a run of zero bytes (43_overflow_codec.md R712). -/
theorem encodeTapV0_zeros (hspec : SpecConstants params) (hp : 2048 ≤ p) :
    encodeTapV0 params p =
      (List.replicate (max 1 (p / params.v0ZeroValue)) 0#8,
        decide (p = max 1 (p / params.v0ZeroValue) * params.v0ZeroValue)) := by
  obtain ⟨-, -, -, -, hscale, -⟩ := hspec
  rw [encodeTapV0, hscale, if_neg (by omega), if_neg (by omega)]

end

/-! ### Every profile -/

/-- The final field of TAP v1 and v2: one byte exactly for a remainder that is a multiple of 8 in 8..1016
(43_overflow_codec.md R710). -/
theorem tapFinalField_eq {params : Config.Params} (hspec : SpecConstants params) (r : Nat) :
    tapFinalField params r =
      if 8 ≤ r ∧ r ≤ 1016 ∧ 8 ∣ r then [BitVec.ofNat 8 (r / 8)] else 0x00#8 :: littleEndian 3 r := by
  obtain ⟨-, -, -, -, hscale, -⟩ := hspec
  have hnarrow : (r % 8 = 0 ∧ 1 ≤ r / 8 ∧ r / 8 ≤ 0x7F) ↔ (8 ≤ r ∧ r ≤ 1016 ∧ 8 ∣ r) := by omega
  simp only [tapFinalField, hscale, hnarrow, tapWideField, littleEndian_eq_leBytes]

/-- The machine writes the rules' bytes with the rules' flag (43_overflow_codec.md R710, R712, R714). -/
theorem ovfEncode_eq_pulseBytes {params : Config.Params} (hspec : SpecConstants params) (profile : Profile) (p : Nat) :
    ovfEncode params profile p = pulseBytes params.v0ZeroValue profile p := by
  have htap : (encodeTapV1 params p, true) = pulseBytes params.v0ZeroValue .tapV1 p := by
    rw [encodeTapV1, tapFinalField_eq hspec]
    obtain ⟨-, -, -, -, -, hsentinel, -⟩ := hspec
    rw [hsentinel]
    rfl
  cases profile with
  | tapV0 =>
    rw [ovfEncode, pulseBytes]
    split
    · next hp => exact encodeTapV0_below_scale hspec hp
    · next hp =>
      split
      · next hp' => exact encodeTapV0_narrow hspec (by omega) hp'
      · next hp' => exact encodeTapV0_zeros hspec (by omega)
  | tapV1 => exact htap
  | tapV2 => exact htap
  | dmp b =>
    rw [ovfEncode, pulseBytes, encodeDmp, littleEndian_eq_leBytes, littleEndian_eq_leBytes]
    rfl

end Sys2Proof.Proofs
end

section
/-! Decoding what OVF encodes (43_overflow_codec.md R736, R738): bytes that are whole fields of a pulse are decoded to
it and cut short are incomplete, and what the encoder writes for TAP v1, TAP v2 and DMP is whole fields. -/

namespace Sys2Proof.Proofs

open Sys2Proof.Machine Sys2Proof.Claims Sys2Proof.Laws

/-! ### Bytes that are whole fields -/

/-- The bytes are one field: it is read the same whatever follows, and is incomplete when cut short. -/
structure OneField (field : List Byte → Field) (bytes : List Byte) (outcome : Field) : Prop where
  nonempty : 0 < bytes.length
  whole : ∀ rest, field (bytes ++ rest) = outcome
  cut : ∀ n, n < bytes.length → field (bytes.take n) = .incomplete

/-- The bytes are the fields of a pulse: continuations and a final field that sum to it (43_overflow_codec.md R702). -/
inductive PulseFields (field : List Byte → Field) : Nat → List Byte → Prop where
  | last {v : Nat} {bytes : List Byte} (final : OneField field bytes (.last v bytes.length)) :
      PulseFields field v bytes
  | continues {v p : Nat} {bytes rest : List Byte} (head : OneField field bytes (.continues v bytes.length))
      (tail : PulseFields field p rest) : PulseFields field (v + p) (bytes ++ rest)

section
variable {params : Config.Params} {field : List Byte → Field} {p : Nat} {bytes : List Byte}

theorem ovfFields_last {v : Nat} (h : OneField field bytes (.last v bytes.length)) (fuel acc next : Nat)
    (rest : List Byte) :
    ovfFields params field (fuel + 1) acc (bytes ++ rest) next
      = ovfFinal params (acc + v) (next + bytes.length) := by
  rw [ovfFields, h.whole]

theorem ovfFields_continues {v acc : Nat} (h : OneField field bytes (.continues v bytes.length))
    (hmax : acc + v ≤ Config.pulseMax params) (fuel next : Nat) (rest : List Byte) :
    ovfFields params field (fuel + 1) acc (bytes ++ rest) next
      = ovfFields params field fuel (acc + v) rest (next + bytes.length) := by
  rw [ovfFields, h.whole]
  simp only [if_neg (Nat.not_lt.mpr hmax), List.drop_left]

theorem ovfFields_cut {outcome : Field} (h : OneField field bytes outcome) {n : Nat} (hn : n < bytes.length)
    (fuel acc next : Nat) : ovfFields params field fuel acc (bytes.take n) next = .needMore := by
  cases fuel with
  | zero => rfl
  | succ fuel => rw [ovfFields, h.cut n hn]

/-- The fields of a pulse are decoded to its value, whatever follows them (43_overflow_codec.md R736). -/
theorem PulseFields.decode (h : PulseFields field p bytes) (after : List Byte) {fuel acc : Nat} (next : Nat)
    (hfuel : bytes.length ≤ fuel) (hmax : acc + p ≤ Config.pulseMax params) :
    ovfFields params field fuel acc (bytes ++ after) next = ovfFinal params (acc + p) (next + bytes.length) := by
  induction h generalizing fuel acc next with
  | last final =>
    have hpos := final.nonempty
    obtain ⟨fuel, rfl⟩ : ∃ n, fuel = n + 1 := ⟨fuel - 1, by omega⟩
    exact ovfFields_last final fuel acc next after
  | continues head tail ih =>
    have hpos := head.nonempty
    rw [List.length_append] at hfuel ⊢
    obtain ⟨fuel, rfl⟩ : ∃ n, fuel = n + 1 := ⟨fuel - 1, by omega⟩
    rw [List.append_assoc, ovfFields_continues head (by omega), ih _ (by omega) (by omega), Nat.add_assoc,
      Nat.add_assoc]

/-- The fields of a pulse cut short need more bytes (43_overflow_codec.md R738). -/
theorem PulseFields.cut (h : PulseFields field p bytes) {n acc : Nat} (fuel next : Nat) (hn : n < bytes.length)
    (hmax : acc + p ≤ Config.pulseMax params) :
    ovfFields params field fuel acc (bytes.take n) next = .needMore := by
  induction h generalizing n fuel acc next with
  | last final => exact ovfFields_cut final hn fuel acc next
  | @continues v p bytes rest head tail ih =>
    rw [List.length_append] at hn
    rw [List.take_append]
    rcases Nat.lt_or_ge n bytes.length with hcut | hwhole
    · rw [Nat.sub_eq_zero_of_le hcut.le, List.take_zero, List.append_nil]
      exact ovfFields_cut head hcut fuel acc next
    · rw [List.take_of_length_le hwhole]
      cases fuel with
      | zero => rfl
      | succ fuel =>
        rw [ovfFields_continues head (by omega)]
        exact ih fuel _ (by omega) (by omega)

end

/-! ### The fields each profile writes -/

/-- The bytes of the encoder's loop are the fields of the pulse, when its sentinel is a continuation and every pulse
below it one final field (43_overflow_codec.md R710, R714). -/
theorem pulseFields_of_loop {field : List Byte → Field} {encode final : Nat → List Byte} {sentinel : Nat}
    {full : List Byte} (hpos : 1 ≤ sentinel)
    (loop : ∀ p, encode p = if sentinel ≤ p then full ++ encode (p - sentinel) else final p)
    (hfull : OneField field full (.continues sentinel full.length))
    (hfinal : ∀ r, r < sentinel → OneField field (final r) (.last r (final r).length)) (p : Nat) :
    PulseFields field p (encode p) := by
  induction p using Nat.strong_induction_on with
  | _ p ih =>
    rw [loop]
    split
    · next hp =>
      have hfields := PulseFields.continues hfull (ih (p - sentinel) (by omega))
      rwa [Nat.add_sub_cancel' hp] at hfields
    · next hp => exact .last (hfinal p (by omega))

/-- A nonzero byte is a narrow TAP field (30_encoding.md R333). -/
theorem oneField_tapNarrow (params : Config.Params) {b : Byte} (hb : b ≠ 0#8) :
    OneField (tapV1Field params) [b] (.last (params.tapScale * b.toNat) 1) where
  nonempty := Nat.one_pos
  whole := fun rest => by simp [tapV1Field, hb]
  cut := fun n hn => by rw [Nat.lt_one_iff.mp hn]; rfl

/-- A zero byte and three bytes are a wide TAP field, a continuation at the sentinel (30_encoding.md R333). -/
theorem oneField_tapWide (params : Config.Params) {w : Nat} (hw : w < 2 ^ 24) :
    OneField (tapV1Field params) (tapWideField w)
      (if w = params.tapWideSentinel then .continues w 4 else .last w 4) where
  nonempty := by simp
  whole := fun rest => by
    have hvalue : fromLE (leBytes 3 w) = w := fromLE_leBytes_of_lt hw
    simp [tapV1Field, tapWideField, hvalue]
  cut := fun n hn => by
    rw [tapWideField_length] at hn
    cases n with
    | zero => rfl
    | succ n =>
      have hshort : n < 3 := by omega
      simp [tapV1Field, tapWideField, hshort]

/-- The final field of TAP v1 and v2 is one field of its value (43_overflow_codec.md R710). -/
theorem oneField_tapFinal {params : Config.Params} (hspec : SpecConstants params) {r : Nat} (hr : r < 0xFFFFFF) :
    OneField (tapV1Field params) (tapFinalField params r) (.last r (tapFinalField params r).length) := by
  obtain ⟨-, -, -, -, hscale, hsentinel, -⟩ := hspec
  rw [tapFinalField, hscale]
  split
  · next hnarrow =>
    obtain ⟨hmod, hpos, hle⟩ := hnarrow
    have hvalue : (BitVec.ofNat 8 (r / 8)).toNat = r / 8 := Nat.mod_eq_of_lt (by omega)
    have hb : BitVec.ofNat 8 (r / 8) ≠ 0#8 := fun h => by simp [h] at hvalue; omega
    have hfield := oneField_tapNarrow params hb
    rwa [hvalue, hscale, Nat.mul_div_cancel' (Nat.dvd_of_mod_eq_zero hmod)] at hfield
  · have hfield := oneField_tapWide params (w := r) (by omega)
    rwa [if_neg (by omega)] at hfield

theorem pulseFields_tapV1 {params : Config.Params} (hspec : SpecConstants params) (p : Nat) :
    PulseFields (tapV1Field params) p (encodeTapV1 params p) := by
  have ⟨_, _, _, _, _, hsentinel, _⟩ := hspec
  have hfull := oneField_tapWide params (w := params.tapWideSentinel) (by omega)
  rw [if_pos rfl] at hfull
  exact pulseFields_of_loop (by omega) (encodeTapV1_loop (by omega)) hfull
    (fun r hr => oneField_tapFinal hspec (by omega)) p

/-- `N` bytes of a value up to the sentinel are a DMP field, a continuation at the sentinel (30_encoding.md R335). -/
theorem oneField_dmp {b w : Nat} (hb : 1 ≤ b) (hw : w ≤ dmpSentinel b) :
    OneField (dmpField b) (leBytes (dmpFieldBytes b) w)
      (if w = dmpSentinel b then .continues w (dmpFieldBytes b) else .last w (dmpFieldBytes b)) where
  nonempty := by rw [leBytes_length]; exact dmpFieldBytes_pos hb
  whole := fun rest => by
    have hvalue : fromLE (leBytes (dmpFieldBytes b) w) = w := fromLE_leBytes_of_lt (hw.trans_lt (dmpSentinel_lt b))
    simp [dmpField, hvalue, Nat.not_lt.mpr hw]
  cut := fun n hn => by
    rw [leBytes_length] at hn
    simp [dmpField, hn]

theorem pulseFields_dmp {b : Nat} (hb : 1 ≤ b) (p : Nat) : PulseFields (dmpField b) p (encodeDmp b p) := by
  refine pulseFields_of_loop (dmpSentinel_pos hb) (encodeDmp_loop hb) ?_ (fun r hr => ?_) p
  · have hfull := oneField_dmp hb (Nat.le_refl (dmpSentinel b))
    rw [if_pos rfl] at hfull
    rwa [leBytes_length]
  · have hfinal := oneField_dmp hb hr.le
    rw [if_neg hr.ne] at hfinal
    rwa [leBytes_length]

/-- A lossless profile decodes field by field, and writes every pulse as its fields (43_overflow_codec.md R720 to R730,
R736). -/
theorem losslessProfile_fields {params : Config.Params} (hspec : SpecConstants params) {profile : Profile}
    (hprofile : losslessProfile profile) :
    ∃ field : List Byte → Field,
      (∀ before bytes eos, ovfDecode params profile (before ++ bytes) before.length eos
        = ovfFields params field bytes.length 0 bytes before.length)
      ∧ ∀ p, PulseFields field p (ovfEncode params profile p).1 := by
  cases profile with
  | tapV0 => exact hprofile.elim
  | tapV1 => exact ⟨_, fun before bytes _ => by rw [ovfDecode, List.drop_left], pulseFields_tapV1 hspec⟩
  | tapV2 => exact ⟨_, fun before bytes _ => by rw [ovfDecode, List.drop_left], pulseFields_tapV1 hspec⟩
  | dmp b => exact ⟨_, fun before bytes _ => by rw [ovfDecode, List.drop_left], pulseFields_dmp hprofile.1⟩

/-! ### The statements -/

/-- Settles O36: the machine's bytes are the rules', and for a lossless profile they are the fields of the pulse. -/
theorem overflowRoundTrip : Obligations.OverflowRoundTrip := by
  intro params p profile hspec hpos hle
  have hmax := pulseMax_eq hspec
  refine ⟨fun _ => ovfEncode_eq_pulseBytes hspec profile p, fun hprofile before after eos => ?_⟩
  obtain ⟨field, hdecode, hfields⟩ := losslessProfile_fields hspec hprofile
  have hfuel := List.length_append (as := (ovfEncode params profile p).1) (bs := after)
  rw [List.append_assoc, hdecode, (hfields p).decode after _ (by omega) (by omega), Nat.zero_add]
  exact ovfFinal_of_range hpos (by omega)

/-- A part of a run of zero bytes that is not closed needs more bytes while its value is in range
(43_overflow_codec.md R725). -/
theorem decodeTapV0_openRun {params : Config.Params} {k : Nat}
    (hmax : k * params.v0ZeroValue ≤ Config.pulseMax params) (next : Nat) :
    decodeTapV0 params (List.replicate k 0#8) next false = .needMore := by
  rcases Nat.eq_zero_or_pos k with rfl | hk
  · rfl
  · rw [← List.append_nil (List.replicate k _), decodeTapV0_zeroRun params hk rfl, if_neg (by omega),
      if_pos ⟨rfl, rfl⟩]

/-- TAP v0 bytes cut short are a run of zero bytes that stands for no more than the pulse
(43_overflow_codec.md R712). -/
theorem encodeTapV0_take {params : Config.Params} (hspec : SpecConstants params) {p n : Nat}
    (hn : n < (encodeTapV0 params p).1.length) :
    (encodeTapV0 params p).1.take n = List.replicate n 0#8 ∧ n * params.v0ZeroValue ≤ p := by
  have one : ∀ b : Byte, n < [b].length → [b].take n = List.replicate n 0#8 ∧ n * params.v0ZeroValue ≤ p := by
    intro b hb
    obtain rfl : n = 0 := Nat.lt_one_iff.mp hb
    simp
  rcases Nat.lt_or_ge p 8 with hp | hp
  · rw [encodeTapV0_below_scale hspec hp] at hn ⊢
    exact one _ hn
  rcases Nat.lt_or_ge p 2048 with hp' | hp'
  · rw [encodeTapV0_narrow hspec hp hp'] at hn ⊢
    exact one _ hn
  · rw [encodeTapV0_zeros hspec hp'] at hn ⊢
    rw [List.length_replicate] at hn
    refine ⟨by rw [List.take_replicate, Nat.min_eq_left hn.le], ?_⟩
    have hle : n ≤ p / params.v0ZeroValue :=
      (lt_max_iff.mp hn).elim (fun h => Nat.lt_one_iff.mp h ▸ Nat.zero_le _) Nat.le_of_lt
    exact (Nat.mul_le_mul_right _ hle).trans (Nat.div_mul_le_self p _)

/-- Settles O38: fields cut short, and for TAP v0 a run of zero bytes that nothing closes. -/
theorem prefixesNeedMoreBytes : Obligations.PrefixesNeedMoreBytes := by
  intro params hspec
  have hmax := pulseMax_eq hspec
  refine ⟨fun p n profile before eos hprofile hpos hle hn => ?_, fun p n before hzero hpos hle hn => ?_⟩
  · obtain ⟨field, hdecode, hfields⟩ := losslessProfile_fields hspec hprofile
    rw [hdecode]
    exact (hfields p).cut _ _ hn (by omega)
  · obtain ⟨hrun, hvalue⟩ := encodeTapV0_take hspec hn
    rw [ovfDecode_tapV0_append, ovfEncode, hrun]
    exact decodeTapV0_openRun (by omega) _

end Sys2Proof.Proofs
end

section
/-! What `GEN.PULSE` loses in TAP v0 (43_overflow_codec.md R712, 44_framing.md R844, 70_reset_and_hazards.md R1010): the
pulses its bytes represent exactly, and the zero run that folds into the one before it. -/

namespace Sys2Proof.Proofs

open Sys2Proof.Machine Sys2Proof.Claims Sys2Proof.Laws

/-- At the reference zero value the flag says which pulses TAP v0 represents (43_overflow_codec.md R712, R736). -/
theorem encodeTapV0_exact_iff {params : Config.Params} (hspec : SpecConstants params)
    (hzero : params.v0ZeroValue = 25000) (p : Nat) : (encodeTapV0 params p).2 = true ↔ exactInTapV0 p := by
  rcases Nat.lt_or_ge p 8 with hp | hp
  · rw [encodeTapV0_below_scale hspec hp]
    refine iff_of_false Bool.false_ne_true ?_
    rintro (⟨q, hq, -, rfl⟩ | ⟨n, hn, rfl⟩) <;> omega
  rcases Nat.lt_or_ge p 2048 with hp' | hp'
  · rw [encodeTapV0_narrow hspec hp hp', decide_eq_true_iff]
    constructor
    · rintro ⟨q, rfl⟩
      exact .inl ⟨q, by omega, by omega, rfl⟩
    · rintro (⟨q, -, -, rfl⟩ | ⟨n, hn, rfl⟩)
      · exact ⟨q, rfl⟩
      · omega
  · rw [encodeTapV0_zeros hspec hp', decide_eq_true_iff, hzero]
    constructor
    · intro h
      exact .inr ⟨max 1 (p / 25000), Nat.le_max_left _ _, by omega⟩
    · rintro (⟨q, -, hq, rfl⟩ | ⟨n, hn, rfl⟩) <;> omega

/-- TAP v0 bytes begin with a zero byte exactly from 2048 on (43_overflow_codec.md R712). -/
theorem encodeTapV0_head_iff {params : Config.Params} (hspec : SpecConstants params) (p : Nat) :
    (encodeTapV0 params p).1.head? = some 0#8 ↔ 2048 ≤ p := by
  rcases Nat.lt_or_ge p 8 with hp | hp
  · rw [encodeTapV0_below_scale hspec hp]
    exact iff_of_false (by decide) (by omega)
  rcases Nat.lt_or_ge p 2048 with hp' | hp'
  · rw [encodeTapV0_narrow hspec hp hp']
    refine iff_of_false (fun h => ?_) (by omega)
    have hbyte : (BitVec.ofNat 8 (p / 8)).toNat = 0 := by rw [Option.some.inj h]; rfl
    rw [BitVec.toNat_ofNat] at hbyte
    omega
  · rw [encodeTapV0_zeros hspec hp', List.head?_replicate]
    exact iff_of_true (if_neg (by omega)) hp'

/-- A zero run folds into a zero byte at the end of the pulse section (44_framing.md R844, 70_reset_and_hazards.md
R1010). -/
theorem foldsIntoLast_iff {params : Config.Params} (hsize : params.headerSize = 20) {g : Gen}
    (hprofile : g.profile = .tapV0) (out : List Byte) :
    foldsIntoLast params g out = true ↔
      out.head? = some 0#8 ∧ 20 < g.sink.length ∧ readByte g.sink (g.sink.length - 1) = some 0#8 := by
  simp [foldsIntoLast, hprofile, hsize, genWptr, and_assoc]

/-- A pulse answered OK is appended whole, with `LOSSY` set when its bytes are not exact or fold into the run before them
(44_framing.md R844). -/
theorem genPulse_ok {s t : State} {p : Word} (h : exec (.genPulse p) s = .next t) (hok : t.response.status = .ok) :
    let bytes := ovfEncode s.params s.gen.profile (pulseOperand s.params p)
    t.gen = { s.gen with
      sink := s.gen.sink ++ bytes.1
      lossy := s.gen.lossy || !(bytes.2 && !foldsIntoLast s.params s.gen bytes.1) } := by
  simp only [exec, execGenPulse, genWptr, sinkWrite_end] at h
  split at h
  · cases h; cases hok
  · split at h
    · cases h; cases hok
    · split at h
      · cases h; cases hok
      · cases h; rfl

/-- Settles O39: the flag is clear exactly when the bytes are exact and fold into no run before them. -/
theorem tapV0LossIsFlagged : Obligations.TapV0LossIsFlagged := by
  intro s t p hspec hzero hmode hprofile hlossy h hok
  have ⟨_, _, hwidth, hsize, _⟩ := hspec
  rw [genPulse_ok h hok, pulseOperand_of_spec hwidth, hprofile, ovfEncode, hlossy, Bool.false_or]
  rw [Bool.not_eq_false', Bool.and_eq_true, encodeTapV0_exact_iff hspec hzero, Bool.not_eq_true',
    ← Bool.not_eq_true, foldsIntoLast_iff hsize hprofile, encodeTapV0_head_iff hspec, sinkByte]

end Sys2Proof.Proofs
end

section
/-! PAR command by command (44_framing.md R820 to R826): each outcome of `PAR.BYTE`, `PAR.EOS` and `PAR.PULL` as a whole
next state, and the modes a command may lead to. -/

namespace Sys2Proof.Proofs

open Sys2Proof.Machine Sys2Proof.Claims Sys2Proof.Laws

theorem parInputClosed_iff (p : Par) : parInputClosed p = true ↔ p.eos = true ∨ p.mode = .invalid ∨ p.mode = .done := by
  simp only [parInputClosed, Bool.or_eq_true, beq_iff_eq]
  tauto

theorem parInputClosed_eq_false_iff (p : Par) :
    parInputClosed p = false ↔ p.eos = false ∧ (p.mode = .awaitingHeader ∨ p.mode = .streamingPulses) := by
  cases hmode : p.mode <;> simp [parInputClosed, hmode]

theorem parBufFull_eq_false_iff (params : Config.Params) (p : Par) :
    parBufFull params p = false ↔ params.parBufCap ≠ some (p.buf.length - p.cur) := by
  simp [parBufFull]

/-! ### The outcomes of `PAR.BYTE` and `PAR.EOS` -/

section
variable {s : State} {b : Byte}

theorem exec_parByte_closed (hclosed : parInputClosed s.par = true) :
    exec (.parByte b) s = .next { s with response := ⟨.badState, []⟩ } := by
  simp only [exec, execParByte, if_pos hclosed, refuse_eq]

theorem exec_parEos_closed (hclosed : parInputClosed s.par = true) :
    exec .parEos s = .next { s with response := ⟨.badState, []⟩ } := by
  simp only [exec, execParEos, if_pos hclosed, refuse_eq]

theorem exec_parEos_awaiting (heos : s.par.eos = false) (hmode : s.par.mode = .awaitingHeader) :
    exec .parEos s = .next { s with
      par := { s.par with eos := true, err := .headerTruncated, mode := .invalid }
      response := ⟨.invalidHeader, []⟩ } := by
  have hopen := (parInputClosed_eq_false_iff s.par).mpr ⟨heos, .inl hmode⟩
  simp only [exec, execParEos, hopen, if_neg Bool.false_ne_true, if_pos hmode]
  rfl

theorem exec_parEos_streaming (heos : s.par.eos = false) (hmode : s.par.mode = .streamingPulses) :
    exec .parEos s = .next { s with par := { s.par with eos := true }, response := ⟨.ok, []⟩ } := by
  have hopen := (parInputClosed_eq_false_iff s.par).mpr ⟨heos, .inr hmode⟩
  have hmode' : s.par.mode ≠ .awaitingHeader := by simp [hmode]
  simp only [exec, execParEos, hopen, if_neg Bool.false_ne_true, if_neg hmode', respond_eq]

variable (hopen : parInputClosed s.par = false) (hroom : s.params.parBufCap ≠ some (s.par.buf.length - s.par.cur))
include hopen hroom

theorem exec_parByte_appends (hheader : s.par.mode = .awaitingHeader → s.par.buf.length + 1 ≠ s.params.headerSize) :
    exec (.parByte b) s = .next { s with par := { s.par with buf := s.par.buf ++ [b] }, response := ⟨.ok, []⟩ } := by
  have hfull := (parBufFull_eq_false_iff s.params s.par).mpr hroom
  simp only [exec, execParByte, hopen, hfull, if_neg Bool.false_ne_true, List.length_append, List.length_singleton,
    if_neg (not_and.mpr hheader), respond_eq]

theorem exec_parByte_checks (hmode : s.par.mode = .awaitingHeader)
    (hlast : s.par.buf.length + 1 = s.params.headerSize) :
    exec (.parByte b) s = parCheckHeader { s with par := { s.par with buf := s.par.buf ++ [b] } } := by
  have hfull := (parBufFull_eq_false_iff s.params s.par).mpr hroom
  have hheader := And.intro hmode hlast
  simp only [exec, execParByte, hopen, hfull, if_neg Bool.false_ne_true, List.length_append, List.length_singleton,
    if_pos hheader]

end

/-- Settles O40: the byte that is appended and starts no header check. -/
theorem parByteAppends : Obligations.ParByteAppends := by
  intro s b ⟨_, _, _, hsize, _⟩ hgate hroom hheader
  rw [gateOpen, Bool.and_eq_true, Bool.not_eq_true', Bool.or_eq_true, beq_iff_eq, beq_iff_eq] at hgate
  refine exec_parByte_appends ((parInputClosed_eq_false_iff s.par).mpr hgate.symm) hroom fun hmode => ?_
  rw [hmode] at hheader
  obtain hstreaming | hlen := hheader
  · cases hstreaming
  · omega

/-! ### How far a pull reads -/

/-- With no byte left a pulse is incomplete, for every profile (43_overflow_codec.md R720). -/
theorem ovfDecode_of_length_le {params : Config.Params} {profile : Profile} {buf : List Byte} {i : Nat} {eos : Bool}
    (hi : buf.length ≤ i) : ovfDecode params profile buf i eos = .needMore := by
  have hnil : buf.drop i = [] := List.drop_eq_nil_of_le hi
  cases profile with
  | tapV0 | tapV1 | tapV2 | dmp => rw [ovfDecode, hnil]; rfl

/-- A zero pulse is skipped for a byte or more of the buffer (43_overflow_codec.md R734). -/
theorem ovfDecode_skip_bounds {params : Config.Params} {profile : Profile} {buf : List Byte} {i j : Nat} {eos : Bool}
    (hprofile : profileOk profile) (h : ovfDecode params profile buf i eos = .skip j) : i < j ∧ j ≤ buf.length := by
  have hi : i ≤ buf.length := by
    by_contra hi
    rw [ovfDecode_of_length_le (Nat.le_of_not_le hi)] at h
    cases h
  exact pulseEnd_ovfDecode hprofile hi (by rw [h]; rfl)

/-- No field of any size moves the offset back (43_overflow_codec.md R702). -/
theorem ovfFields_le_pulseEnd {params : Config.Params} {field : List Byte → Field} {fuel acc next j : Nat}
    {bytes : List Byte} (h : pulseEnd (ovfFields params field fuel acc bytes next) = some j) : next ≤ j := by
  induction fuel generalizing acc bytes next with
  | zero => cases h
  | succ fuel ih =>
    unfold ovfFields at h
    split at h
    · cases h
    · cases h
    · have hj := pulseEnd_ovfFinal h; omega
    · split at h
      · cases h
      · exact (Nat.le_add_right _ _).trans (ih h)

theorem ovfDecode_le_pulseEnd {params : Config.Params} {profile : Profile} {buf : List Byte} {i j : Nat} {eos : Bool}
    (h : pulseEnd (ovfDecode params profile buf i eos) = some j) : i ≤ j := by
  cases profile with
  | tapV0 => exact (pulseEnd_decodeTapV0 h).1.le
  | tapV1 | tapV2 | dmp => exact ovfFields_le_pulseEnd h

theorem parPullLoop_of_length_le {s : State} (hcur : s.par.buf.length ≤ s.par.cur) (fuel : Nat) :
    parPullLoop fuel s = parNeedMore s := by
  cases fuel with
  | zero => rfl
  | succ fuel => rw [parPullLoop, ovfDecode_of_length_le hcur]

/-- The bytes left are rounds enough for the loop of a pull: more change nothing (44_framing.md R822). -/
theorem parPullLoop_fuel {s : State} (hprofile : profileOk s.par.profile) {n m : Nat}
    (hn : s.par.buf.length - s.par.cur ≤ n) (hm : s.par.buf.length - s.par.cur ≤ m) :
    parPullLoop n s = parPullLoop m s := by
  induction n generalizing s m with
  | zero => rw [parPullLoop_of_length_le (by omega), parPullLoop_of_length_le (by omega)]
  | succ n ih =>
    cases m with
    | zero => rw [parPullLoop_of_length_le (by omega), parPullLoop_of_length_le (by omega)]
    | succ m =>
      unfold parPullLoop
      split
      · rfl
      · next j hskip =>
        obtain ⟨hcur, hlen⟩ := ovfDecode_skip_bounds hprofile hskip
        have hn' : s.par.buf.length - j ≤ n := by omega
        have hm' : s.par.buf.length - j ≤ m := by omega
        exact ih (s := { s with par := { s.par with cur := j } }) hprofile hn' hm'
      · rfl
      · rfl
      · rfl

/-! ### The outcomes of `PAR.PULL` -/

section
variable {s : State}

theorem exec_parPull_invalid (hmode : s.par.mode = .invalid) :
    exec .parPull s = .next { s with response := ⟨.badState, []⟩ } := by
  simp only [exec, execParPull, hmode, refuse_eq]

theorem exec_parPull_done (hmode : s.par.mode = .done) :
    exec .parPull s = .next { s with response := ⟨.endOfStream, []⟩ } := by
  simp only [exec, execParPull, hmode, respond_eq]

theorem exec_parPull_awaiting (hmode : s.par.mode = .awaitingHeader) :
    exec .parPull s = .next { s with response := ⟨.needMore, []⟩ } := by
  simp only [exec, execParPull, hmode, respond_eq]

theorem exec_parPull_loop (hmode : s.par.mode = .streamingPulses) :
    exec .parPull s = parPullLoop (s.par.buf.length - s.par.cur) s := by
  simp only [exec, execParPull, hmode]

variable (hmode : s.par.mode = .streamingPulses) (hprofile : profileOk s.par.profile)
include hmode hprofile

/-- What a pull does first is what `OvfDecode` gives at the consume offset (44_framing.md R822). -/
theorem exec_parPull_streaming :
    exec .parPull s = parPullLoop (s.par.buf.length - s.par.cur + 1) s := by
  rw [exec_parPull_loop hmode]
  exact parPullLoop_fuel hprofile (Nat.le_refl _) (Nat.le_succ _)

theorem exec_parPull_pulse {v j : Nat}
    (hdecode : ovfDecode s.params s.par.profile s.par.buf s.par.cur s.par.eos = .pulse v j) :
    exec .parPull s = .next { s with par := { s.par with cur := j }, response := ⟨.ok, [natWord v]⟩ } := by
  rw [exec_parPull_streaming hmode hprofile, parPullLoop, hdecode]
  rfl

theorem exec_parPull_skip {j : Nat}
    (hdecode : ovfDecode s.params s.par.profile s.par.buf s.par.cur s.par.eos = .skip j) :
    exec .parPull s = exec .parPull { s with par := { s.par with cur := j } } := by
  obtain ⟨hcur, -⟩ := ovfDecode_skip_bounds hprofile hdecode
  have hleft : s.par.buf.length - j ≤ s.par.buf.length - s.par.cur := by omega
  have hskipped := exec_parPull_loop (s := { s with par := { s.par with cur := j } }) hmode
  rw [hskipped, exec_parPull_streaming hmode hprofile, parPullLoop, hdecode]
  exact parPullLoop_fuel (s := { s with par := { s.par with cur := j } }) hprofile hleft (Nat.le_refl _)

theorem exec_parPull_badField
    (hdecode : ovfDecode s.params s.par.profile s.par.buf s.par.cur s.par.eos = .invalid .badField) :
    exec .parPull s = .next { s with
      par := { s.par with err := .badField, mode := .invalid }, response := ⟨.invalidField, []⟩ } := by
  rw [exec_parPull_streaming hmode hprofile, parPullLoop, hdecode]
  rfl

theorem exec_parPull_pulseOverflow
    (hdecode : ovfDecode s.params s.par.profile s.par.buf s.par.cur s.par.eos = .invalid .pulseOverflow) :
    exec .parPull s = .next { s with
      par := { s.par with err := .pulseOverflow, mode := .invalid }, response := ⟨.pulseOverflow, []⟩ } := by
  rw [exec_parPull_streaming hmode hprofile, parPullLoop, hdecode]
  rfl

theorem exec_parPull_needMore
    (hdecode : ovfDecode s.params s.par.profile s.par.buf s.par.cur s.par.eos = .needMore) :
    exec .parPull s = parNeedMore s := by
  rw [exec_parPull_streaming hmode hprofile, parPullLoop, hdecode]

end

/-- The pull that finds a pulse incomplete before the end of input answers `NEED_MORE`, and no other answers it
(44_framing.md R822, 60_exceptions.md R908). -/
theorem parNeedMore_needMore {s t : State} (h : parNeedMore s = .next t) (ht : t.response.status = .needMore) :
    s.par.eos = false ∧ t = { s with response := ⟨.needMore, []⟩ } := by
  cases heos : s.par.eos with
  | false => rw [parNeedMore_open heos] at h; cases h; exact ⟨rfl, rfl⟩
  | true => rw [parNeedMore_ended heos] at h; split at h <;> cases h <;> cases ht

/-- A pull that answers `NEED_MORE` stops at or behind where it began, before the end of input and, when it had rounds
enough, in front of an incomplete pulse (60_exceptions.md R908, 43_overflow_codec.md R734). -/
theorem parPullLoop_needMore_stops {fuel : Nat} {s t : State} (h : parPullLoop fuel s = .next t)
    (ht : t.response.status = .needMore) :
    s.par.eos = false ∧ s.par.cur ≤ t.par.cur
      ∧ (profileOk s.par.profile → s.par.buf.length - s.par.cur ≤ fuel →
        ovfDecode s.params s.par.profile s.par.buf t.par.cur s.par.eos = .needMore) := by
  induction fuel generalizing s with
  | zero =>
    obtain ⟨heos, rfl⟩ := parNeedMore_needMore h ht
    exact ⟨heos, Nat.le_refl _, fun _ hleft => ovfDecode_of_length_le (by change _ ≤ s.par.cur; omega)⟩
  | succ fuel ih =>
    unfold parPullLoop at h
    split at h
    · cases h; cases ht
    · next j hskip =>
      obtain ⟨heos, hcur, hdecode⟩ := ih h
      have hj : s.par.cur ≤ j := ovfDecode_le_pulseEnd (by rw [hskip]; rfl)
      refine ⟨heos, hj.trans hcur, fun hprofile hleft => hdecode hprofile ?_⟩
      obtain ⟨hlt, -⟩ := ovfDecode_skip_bounds hprofile hskip
      change s.par.buf.length - j ≤ fuel
      omega
    · cases h; cases ht
    · cases h; cases ht
    · next hdecode =>
      obtain ⟨heos, rfl⟩ := parNeedMore_needMore h ht
      exact ⟨heos, Nat.le_refl _, fun _ _ => hdecode⟩

/-! ### The end of input and the table of modes -/

/-- Settles O45: the closed gate, the two open modes, and a TAP v0 run of zero bytes before and after the end of
input. -/
theorem parEosEndsTheInput : Obligations.ParEosEndsTheInput := by
  intro s
  refine ⟨fun hclosed => ?_, exec_parEos_awaiting, fun heos hmode => ?_⟩
  · have hclosed := (parInputClosed_iff s.par).mpr hclosed
    exact ⟨exec_parEos_closed hclosed, fun b => exec_parByte_closed hclosed⟩
  · refine ⟨exec_parEos_streaming heos hmode,
      fun b => exec_parByte_closed ((parInputClosed_iff _).mpr (.inl rfl)), ?_⟩
    intro k hspec hprofile hrun hpos hmax
    have hmax' := pulseMax_eq hspec
    have hok : profileOk s.par.profile := by rw [hprofile]; trivial
    have hk : 1 ≤ k := Nat.pos_of_mul_pos_right hpos
    have decode : ∀ eos, ovfDecode s.params s.par.profile s.par.buf s.par.cur eos
        = decodeTapV0 s.params (List.replicate k 0#8) s.par.cur eos := fun eos => by rw [hprofile, ovfDecode, hrun]
    have before : ovfDecode s.params s.par.profile s.par.buf s.par.cur s.par.eos = .needMore := by
      rw [decode, heos]
      exact decodeTapV0_openRun (by omega) _
    have after : ovfDecode s.params s.par.profile s.par.buf s.par.cur true
        = .pulse (k * s.params.v0ZeroValue) (s.par.cur + k) := by
      have hclosed := decodeTapV0_closedRun hspec hk (rest := []) rfl s.par.cur (eos := true) (.inr rfl)
      rw [List.append_nil] at hclosed
      rw [decode, hclosed, judged, if_neg (by omega), if_neg (by omega)]
    refine ⟨?_, ?_⟩
    · rw [exec_parPull_needMore hmode hok before, parNeedMore_open heos]
    · exact exec_parPull_pulse
        (s := { s with par := { s.par with eos := true }, response := ⟨.ok, []⟩ }) hmode hok after

section
variable {s t : State}

theorem parserMayGo_of_kept (i : Instr) (h : t.par.mode = s.par.mode) : parserMayGo i s.par.mode t.par.mode :=
  .inl h.symm

theorem parCheckHeader_mode (h : parCheckHeader s = .next t) :
    t.par.mode = .streamingPulses ∨ t.par.mode = .invalid := by
  simp only [parCheckHeader] at h
  split at h
  · cases h; exact .inr rfl
  · cases h; exact .inl (recordHeader_mode _ _ _ _ _)

theorem parByte_mode {b : Byte} (h : exec (.parByte b) s = .next t) :
    parserMayGo (.parByte b) s.par.mode t.par.mode := by
  simp only [exec, execParByte] at h
  split at h
  · cases h; exact parserMayGo_of_kept _ rfl
  · split at h
    · cases h; exact parserMayGo_of_kept _ rfl
    · split at h
      · next hheader =>
        obtain ⟨hmode, -⟩ := hheader
        exact .inr (.inr (.inl ⟨⟨b, rfl⟩, hmode, parCheckHeader_mode h⟩))
      · cases h; exact parserMayGo_of_kept _ rfl

theorem parEos_mode (h : exec .parEos s = .next t) : parserMayGo .parEos s.par.mode t.par.mode := by
  simp only [exec, execParEos] at h
  split at h
  · cases h; exact parserMayGo_of_kept _ rfl
  · split at h
    · next hmode => cases h; exact .inr (.inr (.inr (.inl ⟨rfl, hmode, rfl⟩)))
    · cases h; exact parserMayGo_of_kept _ rfl

theorem parNeedMore_mode (h : parNeedMore s = .next t) : t.par.mode = s.par.mode ∨ t.par.mode = .done := by
  cases heos : s.par.eos with
  | false => rw [parNeedMore_open heos] at h; cases h; exact .inl rfl
  | true =>
    rw [parNeedMore_ended heos] at h
    split at h
    · cases h; exact .inr rfl
    · cases h; exact .inr rfl

theorem parPullLoop_mode {fuel : Nat} (h : parPullLoop fuel s = .next t) :
    t.par.mode = s.par.mode ∨ t.par.mode = .invalid ∨ t.par.mode = .done := by
  induction fuel generalizing s with
  | zero => exact (parNeedMore_mode h).imp_right .inr
  | succ fuel ih =>
    unfold parPullLoop at h
    split at h
    · cases h; exact .inl rfl
    · exact (ih h :)
    · cases h; exact .inr (.inl rfl)
    · cases h; exact .inr (.inl rfl)
    · exact (parNeedMore_mode h).imp_right .inr

theorem parPull_mode (h : exec .parPull s = .next t) : parserMayGo .parPull s.par.mode t.par.mode := by
  cases hmode : s.par.mode with
  | invalid => rw [exec_parPull_invalid hmode] at h; cases h; exact .inl hmode.symm
  | done => rw [exec_parPull_done hmode] at h; cases h; exact .inl hmode.symm
  | awaitingHeader => rw [exec_parPull_awaiting hmode] at h; cases h; exact .inl hmode.symm
  | streamingPulses =>
    rw [exec_parPull_loop hmode] at h
    obtain hkept | hended := parPullLoop_mode h
    · exact .inl (hmode ▸ hkept.symm)
    · exact .inr (.inr (.inr (.inr ⟨rfl, rfl, hended⟩)))

end

/-- Settles O46: the commands that reach PAR one by one, and every other leaves it. -/
theorem parserModesFollowTheTable : Obligations.ParserModesFollowTheTable := by
  intro i s t h
  have untouched : touchesPar i = false → parserMayGo i s.par.mode t.par.mode := fun hi =>
    parserMayGo_of_kept i (by rw [(exec_stateChange h).par hi])
  cases i with
  | parByte b => exact parByte_mode h
  | parPull => exact parPull_mode h
  | parEos => exact parEos_mode h
  | parReset => cases h; exact .inr (.inl ⟨.inl rfl, rfl⟩)
  | reset => cases h; exact .inr (.inl ⟨.inr rfl, rfl⟩)
  | _ => exact untouched rfl

end Sys2Proof.Proofs
end

section
/-! Overflow fields at bytes (43_overflow_codec.md R722, R730, R732, R734): what a run of overflow fields adds, what
ends it, and the pull that reads it. -/

namespace Sys2Proof.Proofs

open Sys2Proof.Machine Sys2Proof.Claims Sys2Proof.Laws

theorem fields_succ (n : Nat) (field : List Byte) : fields (n + 1) field = field ++ fields n field :=
  repeatField_succ n field

theorem fields_length (n : Nat) (field : List Byte) : (fields n field).length = n * field.length :=
  repeatField_length n field

theorem judged_of_gt {total : Nat} (h : 2 ^ 32 - 1 < total) (next : Nat) :
    judged total next = .invalid .pulseOverflow := if_pos h

/-! ### A run of overflow fields and the field behind it -/

section
variable {params : Config.Params} {field : List Byte → Field} {S : Nat} {full : List Byte}
  (hfull : OneField field full (.continues S full.length))
include hfull

/-- `n` overflow fields add the sentinel `n` times, and are invalid as soon as the sum passes `PULSE_MAX`
(43_overflow_codec.md R702, R732). -/
theorem ovfFields_run (n : Nat) {fuel acc : Nat} (hfuel : n ≤ fuel) (hacc : acc ≤ Config.pulseMax params)
    (rest : List Byte) (next : Nat) :
    ovfFields params field fuel acc (fields n full ++ rest) next =
      if Config.pulseMax params < acc + n * S then .invalid .pulseOverflow
      else ovfFields params field (fuel - n) (acc + n * S) rest (next + n * full.length) := by
  induction n generalizing fuel acc next with
  | zero => simp [fields, Nat.not_lt.mpr hacc]
  | succ n ih =>
    obtain ⟨fuel, rfl⟩ : ∃ k, fuel = k + 1 := ⟨fuel - 1, by omega⟩
    rw [fields_succ, List.append_assoc, Nat.succ_mul n S, Nat.succ_mul n full.length]
    rcases Nat.lt_or_ge (Config.pulseMax params) (acc + S) with hover | hmax
    · rw [ovfFields, hfull.whole]
      simp only [if_pos hover]
      rw [if_pos (by omega)]
    · rw [ovfFields_continues hfull hmax, ih (by omega) hmax, Nat.add_sub_add_right]
      simp only [Nat.add_assoc, Nat.add_comm S, Nat.add_comm full.length]

theorem length_le_of_run (n : Nat) (rest : List Byte) : n + rest.length ≤ (fields n full ++ rest).length := by
  rw [List.length_append, fields_length]
  exact Nat.add_le_add_right (Nat.le_mul_of_pos_right n hfull.nonempty) _

/-- Behind `n` overflow fields within `PULSE_MAX` there is a round left for the field that follows. -/
theorem ovfFields_run_then {outcome : Field} {final : List Byte} (hfinal : OneField field final outcome) (n : Nat)
    (after : List Byte) (next : Nat) :
    ∃ k, ovfFields params field (fields n full ++ (final ++ after)).length 0 (fields n full ++ (final ++ after)) next =
      if Config.pulseMax params < n * S then .invalid .pulseOverflow
      else ovfFields params field (k + 1) (n * S) (final ++ after) (next + n * full.length) := by
  have hpos := hfinal.nonempty
  have hfuel := length_le_of_run hfull n (final ++ after)
  have hlen := List.length_append (as := final) (bs := after)
  refine ⟨(fields n full ++ (final ++ after)).length - n - 1, ?_⟩
  rw [ovfFields_run hfull n (by omega) (Nat.zero_le _), Nat.zero_add, Nat.sub_add_cancel (by omega)]

variable (hspec : SpecConstants params)
include hspec

/-- A final field behind `n` overflow fields closes the pulse, whatever follows it (43_overflow_codec.md R722, R730). -/
theorem ovfFields_run_last {v : Nat} {final : List Byte} (hfinal : OneField field final (.last v final.length))
    (n : Nat) (after : List Byte) (next : Nat) :
    ovfFields params field (fields n full ++ (final ++ after)).length 0 (fields n full ++ (final ++ after)) next
      = judged (n * S + v) (next + n * full.length + final.length) := by
  have hmax := pulseMax_eq hspec
  obtain ⟨k, hrun⟩ := ovfFields_run_then (params := params) hfull hfinal n after next
  rw [hrun]
  split
  · rw [judged_of_gt (by omega)]
  · rw [ovfFields_last hfinal, ovfFinal_eq_judged hspec]

/-- A field without a meaning behind `n` overflow fields makes the pulse invalid (43_overflow_codec.md R730). -/
theorem ovfFields_run_bad {final : List Byte} (hfinal : OneField field final .bad) {n : Nat}
    (hn : n * S ≤ 2 ^ 32 - 1) (after : List Byte) (next : Nat) :
    ovfFields params field (fields n full ++ (final ++ after)).length 0 (fields n full ++ (final ++ after)) next
      = .invalid .badField := by
  have hmax := pulseMax_eq hspec
  obtain ⟨k, hrun⟩ := ovfFields_run_then (params := params) hfull hfinal n after next
  rw [hrun, if_neg (by omega), ovfFields, hfinal.whole]

/-- Overflow fields that pass `PULSE_MAX` are invalid whatever follows them (43_overflow_codec.md R732). -/
theorem ovfFields_run_over {n : Nat} (hn : 2 ^ 32 - 1 < n * S) (after : List Byte) (next : Nat) :
    ovfFields params field (fields n full ++ after).length 0 (fields n full ++ after) next
      = .invalid .pulseOverflow := by
  have hmax := pulseMax_eq hspec
  have hfuel := length_le_of_run hfull n after
  rw [ovfFields_run hfull n (by omega) (Nat.zero_le _), if_pos (by omega)]

end

/-! ### The fields of the profiles -/

section
variable {params : Config.Params}

theorem oneField_tapSentinel (hspec : SpecConstants params) :
    OneField (tapV1Field params) tapSentinelField (.continues 0xFFFFFF tapSentinelField.length) := by
  obtain ⟨-, -, -, -, -, hsentinel, -⟩ := hspec
  have hfield := oneField_tapWide params (w := 0xFFFFFF) (by decide)
  rwa [if_pos hsentinel.symm] at hfield

theorem oneField_tapByte (hspec : SpecConstants params) {b : Byte} (hb : b ≠ 0#8) :
    OneField (tapV1Field params) [b] (.last (8 * b.toNat) [b].length) := by
  obtain ⟨-, -, -, -, hscale, -⟩ := hspec
  have hfield := oneField_tapNarrow params hb
  rwa [hscale] at hfield

theorem oneField_tapWideFinal (hspec : SpecConstants params) {w : Nat} (hw : w < 0xFFFFFF) :
    OneField (tapV1Field params) (0x00#8 :: littleEndian 3 w) (.last w (0x00#8 :: littleEndian 3 w).length) := by
  obtain ⟨-, -, -, -, -, hsentinel, -⟩ := hspec
  have hfield := oneField_tapWide params (w := w) (by omega)
  rw [if_neg (by omega)] at hfield
  rwa [littleEndian_eq_leBytes]

theorem littleEndian_length (n v : Nat) : (littleEndian n v).length = n := by simp [littleEndian]

variable {b w : Nat} (hb : 1 ≤ b)
include hb

theorem oneField_dmpSentinel :
    OneField (dmpField b) (littleEndian (dmpFieldBytes b) (dmpSentinel b))
      (.continues (dmpSentinel b) (littleEndian (dmpFieldBytes b) (dmpSentinel b)).length) := by
  have hfield := oneField_dmp hb (Nat.le_refl (dmpSentinel b))
  rw [if_pos rfl] at hfield
  rwa [littleEndian_eq_leBytes, leBytes_length]

theorem oneField_dmpFinal (hw : w < dmpSentinel b) :
    OneField (dmpField b) (littleEndian (dmpFieldBytes b) w)
      (.last w (littleEndian (dmpFieldBytes b) w).length) := by
  have hfield := oneField_dmp hb hw.le
  rw [if_neg hw.ne] at hfield
  rwa [littleEndian_eq_leBytes, leBytes_length]

/-- A value above the sentinel that fits the field has no meaning (43_overflow_codec.md R730). -/
theorem oneField_dmpBad (hw : dmpSentinel b < w) (hfits : w < 256 ^ dmpFieldBytes b) :
    OneField (dmpField b) (littleEndian (dmpFieldBytes b) w) .bad where
  nonempty := by rw [littleEndian_length]; exact dmpFieldBytes_pos hb
  whole := fun rest => by
    rw [littleEndian_eq_leBytes]
    have hvalue : fromLE (leBytes (dmpFieldBytes b) w) = w := fromLE_leBytes_of_lt hfits
    simp [dmpField, hvalue, hw]
  cut := fun n hn => by
    rw [littleEndian_length] at hn
    simp [dmpField, littleEndian_length, hn]

end

/-! ### The bytes of the statement -/

section
variable {params : Config.Params} (hspec : SpecConstants params) (before after : List Byte) (eos : Bool) (n : Nat)
include hspec

theorem tapV1_decodes_fields {profile : Profile} (hprofile : profile ∈ [Profile.tapV1, .tapV2]) :
    (∀ b : Byte, b ≠ 0#8 →
        ovfDecode params profile (before ++ (fields n tapSentinelField ++ [b]) ++ after) before.length eos
          = judged (n * 0xFFFFFF + 8 * b.toNat) (before.length + 4 * n + 1))
      ∧ (∀ w, w < 0xFFFFFF →
        ovfDecode params profile (before ++ (fields n tapSentinelField ++ 0x00#8 :: littleEndian 3 w) ++ after)
            before.length eos
          = judged (n * 0xFFFFFF + w) (before.length + 4 * n + 4))
      ∧ (2 ^ 32 - 1 < n * 0xFFFFFF →
        ovfDecode params profile (before ++ fields n tapSentinelField ++ after) before.length eos
          = .invalid .pulseOverflow) := by
  have hfull := oneField_tapSentinel hspec
  have decode : ∀ bytes, ovfDecode params profile (before ++ bytes) before.length eos
      = ovfFields params (tapV1Field params) bytes.length 0 bytes before.length := by
    intro bytes
    obtain rfl | hprofile := List.mem_cons.mp hprofile
    · rw [ovfDecode, List.drop_left]
    · rw [List.mem_singleton.mp hprofile, ovfDecode, List.drop_left]
  refine ⟨fun b hb => ?_, fun w hw => ?_, fun hn => ?_⟩
  · rw [List.append_assoc, decode, List.append_assoc,
      ovfFields_run_last hfull hspec (oneField_tapByte hspec hb), Nat.mul_comm n tapSentinelField.length]
    rfl
  · rw [List.append_assoc, decode, List.append_assoc,
      ovfFields_run_last hfull hspec (oneField_tapWideFinal hspec hw), Nat.mul_comm n tapSentinelField.length]
    rfl
  · rw [List.append_assoc, decode, ovfFields_run_over hfull hspec hn]

theorem dmp_decodes_fields {b : Nat} (hb : 1 ≤ b) :
    (∀ w, w < dmpSentinel b →
        ovfDecode params (.dmp b) (before ++ (fields n (littleEndian (dmpFieldBytes b) (dmpSentinel b))
            ++ littleEndian (dmpFieldBytes b) w) ++ after) before.length eos
          = judged (n * dmpSentinel b + w) (before.length + dmpFieldBytes b * n + dmpFieldBytes b))
      ∧ (∀ w, dmpSentinel b < w → w < 2 ^ (8 * dmpFieldBytes b) → n * dmpSentinel b ≤ 2 ^ 32 - 1 →
        ovfDecode params (.dmp b) (before ++ (fields n (littleEndian (dmpFieldBytes b) (dmpSentinel b))
            ++ littleEndian (dmpFieldBytes b) w) ++ after) before.length eos
          = .invalid .badField)
      ∧ (2 ^ 32 - 1 < n * dmpSentinel b →
        ovfDecode params (.dmp b) (before ++ fields n (littleEndian (dmpFieldBytes b) (dmpSentinel b)) ++ after)
            before.length eos
          = .invalid .pulseOverflow) := by
  have hfull := oneField_dmpSentinel hb
  have decode : ∀ bytes, ovfDecode params (.dmp b) (before ++ bytes) before.length eos
      = ovfFields params (dmpField b) bytes.length 0 bytes before.length := fun bytes => by
    rw [ovfDecode, List.drop_left]
  refine ⟨fun w hw => ?_, fun w hw hfits hn => ?_, fun hn => ?_⟩
  · rw [List.append_assoc, decode, List.append_assoc, ovfFields_run_last hfull hspec (oneField_dmpFinal hb hw),
      littleEndian_length, littleEndian_length, Nat.mul_comm n (dmpFieldBytes b)]
  · have hfits : w < 256 ^ dmpFieldBytes b := by rwa [Nat.pow_mul] at hfits
    rw [List.append_assoc, decode, List.append_assoc, ovfFields_run_bad hfull hspec (oneField_dmpBad hb hw hfits) hn]
  · rw [List.append_assoc, decode, ovfFields_run_over hfull hspec hn]

end

/-! ### The pull -/

/-- A pull that answers `NEED_MORE` changes the consume offset alone, which then stands in front of an incomplete pulse,
so that the same pull sent again changes nothing (60_exceptions.md R908). -/
theorem parPull_needMore {s t : State} (h : exec .parPull s = .next t) (ht : t.response.status = .needMore) :
    t = { s with par := { s.par with cur := t.par.cur }, response := ⟨.needMore, []⟩ }
      ∧ s.par.cur ≤ t.par.cur
      ∧ (s.par.mode = .streamingPulses → profileOk s.par.profile →
        ovfDecode s.params s.par.profile s.par.buf t.par.cur s.par.eos = .needMore)
      ∧ (profileOk s.par.profile → exec .parPull t = .next t) := by
  cases hmode : s.par.mode with
  | invalid => rw [exec_parPull_invalid hmode] at h; cases h; cases ht
  | done => rw [exec_parPull_done hmode] at h; cases h; cases ht
  | awaitingHeader =>
    rw [exec_parPull_awaiting hmode] at h
    cases h
    exact ⟨rfl, Nat.le_refl _, nofun, fun _ => exec_parPull_awaiting hmode⟩
  | streamingPulses =>
    rw [exec_parPull_loop hmode] at h
    obtain ⟨cur, rfl⟩ := parPullLoop_needMore h ht
    obtain ⟨heos, hcur, hdecode⟩ := parPullLoop_needMore_stops h ht
    refine ⟨rfl, hcur, fun _ hprofile => hdecode hprofile (Nat.le_refl _), fun hprofile => ?_⟩
    have again := exec_parPull_needMore
      (s := { s with par := { s.par with cur := cur }, response := ⟨.needMore, []⟩ }) hmode hprofile
      (hdecode hprofile (Nat.le_refl _))
    exact again.trans (parNeedMore_open heos)

/-- Settles O44: the modes of a pull and the outcomes of `OvfDecode`, the pull that needs more bytes, and the decoder at
bytes. -/
theorem parPullFollowsTheDecode : Obligations.ParPullFollowsTheDecode := by
  refine ⟨fun s _ hprofile => ?_, fun s t => parPull_needMore, fun params before after eos n hspec => ?_⟩
  · refine ⟨exec_parPull_invalid, exec_parPull_done, exec_parPull_awaiting, fun hmode => ?_⟩
    split
    · next hdecode => exact exec_parPull_pulse hmode hprofile hdecode
    · next hdecode => exact ⟨(ovfDecode_skip_bounds hprofile hdecode).1, exec_parPull_skip hmode hprofile hdecode⟩
    · next hdecode => exact exec_parPull_badField hmode hprofile hdecode
    · next hdecode => exact exec_parPull_pulseOverflow hmode hprofile hdecode
    · next hdecode =>
      rw [exec_parPull_needMore hmode hprofile hdecode]
      cases heos : s.par.eos with
      | false => rw [parNeedMore_open heos, if_pos rfl]
      | true => exact parNeedMore_ended heos
  · exact ⟨fun profile hprofile => tapV1_decodes_fields hspec before after eos n hprofile,
      fun b hb _ => dmp_decodes_fields hspec before after eos n hb⟩

end Sys2Proof.Proofs
end

section
/-! Container headers (44_framing.md R810 to R818, R851): the checks as the statements write them, the headers that pass
them, and the 20th byte of a header. -/

namespace Sys2Proof.Proofs

open Sys2Proof.Machine Sys2Proof.Claims Sys2Proof.Laws

/-! ### The checks -/

/-- The signature of a TAP family (30_encoding.md R332). -/
def familySignature : Family → List Byte
  | .c64 => sigC64
  | .c16 => sigC16

/-- The check that fails, if one does. -/
def failedCheck : Except ParErr (Format × Family) → Option ParErr
  | .error e => some e
  | .ok _ => none

@[simp] theorem failedCheck_error (e : ParErr) : failedCheck (.error e) = some e := rfl

@[simp] theorem failedCheck_ok (kind : Format × Family) : failedCheck (.ok kind) = none := rfl

theorem signatureKind_family (fam : Family) : signatureKind (familySignature fam) = some (.tap, fam) := by
  cases fam <;> decide

theorem signatureKind_dmp : signatureKind sigDmp = some (.dmp, .c64) := by decide

theorem signatureKind_eq_none {sig : List Byte} (h : sig ∉ [sigC64, sigC16, sigDmp]) : signatureKind sig = none := by
  simp only [List.mem_cons, List.not_mem_nil, or_false, not_or] at h
  obtain ⟨h64, h16, hdmp⟩ := h
  rw [signatureKind, if_neg h64, if_neg h16, if_neg hdmp]

section
variable {h : List Byte}

/-- The checks behind a TAP signature in their order (44_framing.md R810, R812, R813, R814). -/
theorem validateHeader_tap {fam : Family} (hsig : h.take 12 = familySignature fam) :
    validateHeader h =
      if 2 < (byteAt h 12).toNat then .error .badVersion
      else if machineAllowed .tap fam (byteAt h 13) = false then .error .badMachine
      else if 1 < (byteAt h 14).toNat then .error .badVideo
      else .ok (.tap, fam) := by
  simp only [validateHeader, hsig, signatureKind_family, versionAllowed, Bool.not_eq_true', decide_eq_false_iff_not,
    Nat.not_le, ← Nat.not_lt (a := 1), ite_not]

/-- The checks behind the DMP signature in their order (44_framing.md R810, R812, R813, R815). -/
theorem validateHeader_dmp (hsig : h.take 12 = sigDmp) :
    validateHeader h =
      if (byteAt h 12).toNat ≠ 0 then .error .badVersion
      else if 2 < (byteAt h 13).toNat then .error .badMachine
      else if ¬ (1 ≤ (byteAt h 15).toNat ∧ (byteAt h 15).toNat ≤ 32) then .error .badBps
      else .ok (.dmp, .c64) := by
  simp only [validateHeader, hsig, signatureKind_dmp, versionAllowed, machineAllowed, Bool.not_eq_true',
    decide_eq_false_iff_not, Nat.not_le, ite_not, ne_eq]

theorem validateHeader_unsigned (hsig : h.take 12 ∉ [sigC64, sigC16, sigDmp]) :
    validateHeader h = .error .badSignature := by
  simp only [validateHeader, signatureKind_eq_none hsig]

end

theorem ascii_c64 : "C64-TAPE-RAW".toList.map (fun c => BitVec.ofNat 8 c.toNat) = sigC64 := by decide

theorem ascii_c16 : "C16-TAPE-RAW".toList.map (fun c => BitVec.ofNat 8 c.toNat) = sigC16 := by decide

theorem ascii_dmp : "DC2N-TAP-RAW".toList.map (fun c => BitVec.ofNat 8 c.toNat) = sigDmp := by decide

/-- The error of the first check that fails. -/
def firstFailing (checks : List (Bool × ParErr)) : Option ParErr := (checks.find? fun c => c.1).map Prod.snd

theorem firstFailing_cons (fails : Bool) (e : ParErr) (rest : List (Bool × ParErr)) :
    firstFailing ((fails, e) :: rest) = if fails = true then some e else firstFailing rest := by
  cases fails <;> rfl

/-- The checks of the statements by which of the three signatures the header has (44_framing.md R810). -/
theorem headerVerdict_of_signature {h : List Byte} {tap64 tap16 dmp : Bool} (h64 : (h.take 12 == sigC64) = tap64)
    (h16 : (h.take 12 == sigC16) = tap16) (hdmp : (h.take 12 == sigDmp) = dmp) :
    headerVerdict h =
      if (tap64 || tap16 || dmp) = false then some .badSignature
      else if (tap64 || tap16) = true ∧ 2 < (byteAt h 12).toNat then some .badVersion
      else if dmp = true ∧ (byteAt h 12).toNat ≠ 0 then some .badVersion
      else if tap64 = true ∧ 1 < (byteAt h 13).toNat then some .badMachine
      else if tap16 = true ∧ (byteAt h 13).toNat ≠ 2 then some .badMachine
      else if dmp = true ∧ 2 < (byteAt h 13).toNat then some .badMachine
      else if (tap64 || tap16) = true ∧ 1 < (byteAt h 14).toNat then some .badVideo
      else if dmp = true ∧ ¬ (1 ≤ (byteAt h 15).toNat ∧ (byteAt h 15).toNat ≤ 32) then some .badBps
      else none := by
  change firstFailing (headerChecks h) = _
  simp only [headerChecks, ascii_c64, ascii_c16, ascii_dmp, h64, h16, hdmp, firstFailing_cons, byteAt, Bool.and_eq_true,
    Bool.not_eq_true', decide_eq_false_iff_not, Nat.not_le, bne_iff_ne]
  rfl

/-- The first failing check of the list is the one the machine reports (44_framing.md R810). -/
theorem headerVerdict_eq (h : List Byte) : headerVerdict h = failedCheck (validateHeader h) := by
  by_cases h64 : h.take 12 = sigC64
  · rw [headerVerdict_of_signature (tap64 := true) (tap16 := false) (dmp := false) (by rw [h64]; decide)
      (by rw [h64]; decide) (by rw [h64]; decide), validateHeader_tap (fam := .c64) h64]
    simp [apply_ite failedCheck, machineAllowed]
  by_cases h16 : h.take 12 = sigC16
  · rw [headerVerdict_of_signature (tap64 := false) (tap16 := true) (dmp := false) (by rw [h16]; decide)
      (by rw [h16]; decide) (by rw [h16]; decide), validateHeader_tap (fam := .c16) h16]
    simp [apply_ite failedCheck, machineAllowed]
  by_cases hdmp : h.take 12 = sigDmp
  · rw [headerVerdict_of_signature (tap64 := false) (tap16 := false) (dmp := true) (by rw [hdmp]; decide)
      (by rw [hdmp]; decide) (by rw [hdmp]; decide), validateHeader_dmp hdmp]
    simp [apply_ite failedCheck]
  · rw [headerVerdict_of_signature (beq_eq_false_iff_ne.mpr h64) (beq_eq_false_iff_ne.mpr h16)
      (beq_eq_false_iff_ne.mpr hdmp), validateHeader_unsigned (by simp [h64, h16, hdmp])]
    rfl

/-! ### The 20th byte -/

section
variable {s : State} {b : Byte} (hspec : SpecConstants s.params) (hmode : s.par.mode = .awaitingHeader)
  (heos : s.par.eos = false) (hlen : s.par.buf.length = 19)
  (hroom : s.params.parBufCap ≠ some (s.par.buf.length - s.par.cur))
include hspec hmode heos hlen hroom

/-- The 20th byte has the 20 bytes judged (44_framing.md R805, R820). -/
theorem exec_parByte_twentieth :
    exec (.parByte b) s = parCheckHeader { s with par := { s.par with buf := s.par.buf ++ [b] } }
      ∧ (s.par.buf ++ [b]).take s.params.headerSize = s.par.buf ++ [b] := by
  obtain ⟨-, -, -, hsize, -⟩ := hspec
  refine ⟨exec_parByte_checks ((parInputClosed_eq_false_iff s.par).mpr ⟨heos, .inl hmode⟩) hroom hmode (by omega), ?_⟩
  exact List.take_of_length_le (by simp [hlen, hsize])

theorem exec_parByte_rejects {e : ParErr} (hv : validateHeader (s.par.buf ++ [b]) = .error e) :
    exec (.parByte b) s = .next { s with
      par := { s.par with buf := s.par.buf ++ [b], err := e, mode := .invalid }
      response := ⟨.invalidHeader, []⟩ } := by
  obtain ⟨hexec, htake⟩ := exec_parByte_twentieth (b := b) hspec hmode heos hlen hroom
  simp only [hexec, parCheckHeader, htake, hv, raise_eq]
  rfl

theorem exec_parByte_starts {fmt : Format} {fam : Family}
    (hv : validateHeader (s.par.buf ++ [b]) = .ok (fmt, fam)) :
    exec (.parByte b) s = .next { s with
      par := recordHeader s.params (s.par.buf ++ [b]) fmt fam { s.par with buf := s.par.buf ++ [b] }
      response := ⟨.ok, []⟩ } := by
  obtain ⟨hexec, htake⟩ := exec_parByte_twentieth (b := b) hspec hmode heos hlen hroom
  simp only [hexec, parCheckHeader, htake, hv, respond_eq]

end

/-- Settles O41: the list's first failing check is the machine's. -/
theorem headersAreJudgedByTheFirstFailingCheck : Obligations.HeadersAreJudgedByTheFirstFailingCheck := by
  intro s b hspec hmode heos hlen hroom
  have ⟨_, _, _, hsize, _⟩ := hspec
  rw [headerVerdict_eq]
  cases hv : validateHeader (s.par.buf ++ [b]) with
  | error e =>
    refine ⟨fun e' he => ?_, nofun⟩
    obtain rfl : e = e' := Option.some.inj he
    exact exec_parByte_rejects hspec hmode heos hlen hroom hv
  | ok kind =>
    obtain ⟨fmt, fam⟩ := kind
    refine ⟨nofun, fun _ => ⟨_, exec_parByte_starts hspec hmode heos hlen hroom hv, rfl, ?_, ?_, ?_⟩⟩
    · exact recordHeader_mode _ _ _ _ _
    · exact (recordHeader_cur _ _ _ _ _).trans hsize
    · exact recordHeader_buf _ _ _ _ _

/-! ### The headers that pass -/

section
variable {h : List Byte} {fam : Family} (hsig : h.take 12 = familySignature fam)
include hsig

theorem validateHeader_tap_ok (hver : (byteAt h 12).toNat ≤ 2)
    (hmachine : machineAllowed .tap fam (byteAt h 13) = true) (hvideo : (byteAt h 14).toNat ≤ 1) :
    validateHeader h = .ok (.tap, fam) := by
  rw [validateHeader_tap hsig, if_neg (by omega), if_neg (by simp [hmachine]), if_neg (by omega)]

/-- A TAP header passes exactly with a version, machine and video byte of its family's sets (44_framing.md R812 to
R814). -/
theorem validateHeader_tap_isOk_iff :
    (validateHeader h).isOk = true ↔
      (byteAt h 12).toNat ≤ 2 ∧ machineAllowed .tap fam (byteAt h 13) = true ∧ (byteAt h 14).toNat ≤ 1 := by
  refine ⟨fun hok => ?_, fun ⟨hver, hmachine, hvideo⟩ => by rw [validateHeader_tap_ok hsig hver hmachine hvideo]; rfl⟩
  rw [validateHeader_tap hsig] at hok
  split at hok
  · cases hok
  · next hver =>
    split at hok
    · cases hok
    · next hmachine =>
      split at hok
      · cases hok
      · next hvideo => exact ⟨by omega, by simpa using hmachine, by omega⟩

end

theorem validateHeader_dmp_ok {h : List Byte} (hsig : h.take 12 = sigDmp) (hver : (byteAt h 12).toNat = 0)
    (hmachine : (byteAt h 13).toNat ≤ 2) (hbps : 1 ≤ (byteAt h 15).toNat ∧ (byteAt h 15).toNat ≤ 32) :
    validateHeader h = .ok (.dmp, .c64) := by
  rw [validateHeader_dmp hsig, if_neg (by omega), if_neg (by omega), if_neg (by simpa using hbps)]

/-! ### The bytes behind a signature -/

theorem familySignature_length (fam : Family) : (familySignature fam).length = 12 := by cases fam <;> rfl

section
variable {sig : List Byte} (hsig : sig.length = 12)
include hsig

theorem byteAt_behind (rest : List Byte) (i : Nat) : byteAt (sig ++ rest) (12 + i) = byteAt rest i := by
  rw [byteAt, List.getD_append_right _ _ _ _ (by omega), hsig, Nat.add_sub_cancel_left, byteAt]

theorem headerWord_behind (b0 b1 b2 b3 : Byte) (bytes : List Byte) :
    headerWord (sig ++ b0 :: b1 :: b2 :: b3 :: bytes) = natWord (fromLE (bytes.take 4)) := by
  rw [headerWord, List.drop_append, hsig, List.drop_of_length_le (by omega)]
  rfl

end

theorem toNat_append_byte {n : Nat} (x : BitVec n) (b : Byte) : (x ++ b).toNat = x.toNat * 256 + b.toNat := by
  rw [BitVec.toNat_append, ← Nat.shiftLeft_add_eq_or_of_lt b.isLt, Nat.shiftLeft_eq]

/-- Four little-endian bytes are the word with the last one on top (00_scope.md R12). -/
theorem natWord_fromLE (l0 l1 l2 l3 : Byte) : natWord (fromLE [l0, l1, l2, l3]) = l3 ++ l2 ++ l1 ++ l0 := by
  apply BitVec.eq_of_toNat_eq
  have hword : fromLE [l0, l1, l2, l3] < 2 ^ 32 := (fromLE_lt _).trans_eq (by norm_num)
  rw [natWord_toNat hword, toNat_append_byte, toNat_append_byte, toNat_append_byte]
  simp only [fromLE]
  omega

theorem mem_bytes {n : Nat} (hn : n ≤ 256) (b : Byte) : b ∈ (List.range n).map (BitVec.ofNat 8) ↔ b.toNat < n := by
  rw [List.mem_map]
  constructor
  · rintro ⟨k, hk, rfl⟩
    rw [BitVec.toNat_ofNat, Nat.mod_eq_of_lt (by have := List.mem_range.mp hk; omega)]
    exact List.mem_range.mp hk
  · exact fun hb => ⟨b.toNat, List.mem_range.mpr hb, by simp⟩

theorem byte_of_le_one {b : Byte} (h : b.toNat ≤ 1) : b = 0#8 ∨ b = 1#8 := by bv_omega

theorem byte_of_le_two {b : Byte} (h : b.toNat ≤ 2) : b = 0#8 ∨ b = 1#8 ∨ b = 2#8 := by bv_omega

/-! ### The accepted headers -/

/-- The version, machine and video bytes of the statement (44_framing.md R851). -/
def headerTriples (machines : List Byte) : List (Byte × Byte × Byte) :=
  ((List.range 3).map (BitVec.ofNat 8)).flatMap fun ver =>
    machines.flatMap fun machine => ((List.range 2).map (BitVec.ofNat 8)).map fun video => (ver, machine, video)

theorem mem_headerTriples (machines : List Byte) (c : Byte × Byte × Byte) :
    c ∈ headerTriples machines ↔ c.1.toNat < 3 ∧ c.2.1 ∈ machines ∧ c.2.2.toNat < 2 := by
  rw [headerTriples, List.mem_flatMap]
  constructor
  · rintro ⟨ver, hver, hc⟩
    obtain ⟨machine, hmachine, hc⟩ := List.mem_flatMap.mp hc
    obtain ⟨video, hvideo, rfl⟩ := List.mem_map.mp hc
    exact ⟨(mem_bytes (by decide) _).mp hver, hmachine, (mem_bytes (by decide) _).mp hvideo⟩
  · rintro ⟨hver, hmachine, hvideo⟩
    exact ⟨c.1, (mem_bytes (by decide) _).mpr hver, List.mem_flatMap.mpr ⟨c.2.1, hmachine,
      List.mem_map.mpr ⟨c.2.2, (mem_bytes (by decide) _).mpr hvideo, rfl⟩⟩⟩

theorem validateHeader_triple_isOk_iff (fam : Family) (c : Byte × Byte × Byte) (tail : List Byte) :
    (validateHeader (familySignature fam ++ [c.1, c.2.1, c.2.2] ++ tail)).isOk = true ↔
      c.1.toNat ≤ 2 ∧ machineAllowed .tap fam c.2.1 = true ∧ c.2.2.toNat ≤ 1 := by
  have hlen := familySignature_length fam
  have hsig : (familySignature fam ++ [c.1, c.2.1, c.2.2] ++ tail).take 12 = familySignature fam := by
    rw [List.append_assoc, ← hlen, List.take_left]
  rw [validateHeader_tap_isOk_iff hsig, List.append_assoc, byteAt_behind hlen _ 0, byteAt_behind hlen _ 1,
    byteAt_behind hlen _ 2]
  rfl

theorem machineAllowed_c64_iff (machine : Byte) : machineAllowed .tap .c64 machine = true ↔ machine ∈ [0#8, 1#8] := by
  rw [machineAllowed, decide_eq_true_iff, List.mem_pair]
  exact ⟨byte_of_le_one, by rintro (rfl | rfl) <;> decide⟩

theorem machineAllowed_c16_iff (machine : Byte) : machineAllowed .tap .c16 machine = true ↔ machine ∈ [2#8] := by
  rw [machineAllowed, decide_eq_true_iff, List.mem_singleton]
  exact ⟨op_eq_ofNat, by rintro rfl; rfl⟩

/-- Settles O43: the sets of the three bytes are the lists of the statement. -/
theorem acceptedHeadersAreCounted : Obligations.AcceptedHeadersAreCounted := by
  refine ⟨by decide, by decide, by decide, by decide, fun c tail => ?_, fun c tail => ?_,
    fun h => validateHeader_unsigned⟩
  · refine (validateHeader_triple_isOk_iff .c64 c tail).trans (Iff.trans ?_ (mem_headerTriples [0#8, 1#8] c).symm)
    rw [machineAllowed_c64_iff, Nat.lt_succ_iff, Nat.lt_succ_iff]
  · refine (validateHeader_triple_isOk_iff .c16 c tail).trans (Iff.trans ?_ (mem_headerTriples [2#8] c).symm)
    rw [machineAllowed_c16_iff, Nat.lt_succ_iff, Nat.lt_succ_iff]

/-! ### The fields a valid header records -/

/-- The rate of a valid TAP header is the table's entry for its machine and video standard (10_state.md R151). -/
theorem rateLookup_of_header {params : Config.Params} (hspec : SpecConstants params) {machine video : Byte}
    (hmachine : machine.toNat ≤ 2) (hvideo : video.toNat ≤ 1) :
    rateLookup (rateDec params) (headerComputer machine) (headerVideo video) = tapHeaderRate machine video := by
  obtain ⟨-, -, -, -, -, -, hrate⟩ := hspec
  obtain rfl | rfl | rfl := byte_of_le_two hmachine <;> obtain rfl | rfl := byte_of_le_one hvideo
  · exact hrate
  all_goals rfl

theorem machineAllowed_le {fam : Family} {machine : Byte} (h : machineAllowed .tap fam machine = true) :
    machine.toNat ≤ 2 := by
  cases fam <;> simp only [machineAllowed, decide_eq_true_eq] at h <;> omega

theorem tapProfile_eq_tapV2 {ver : Byte} (h : ver.toNat ≤ 2) : (tapProfile ver == .tapV2) = (ver == 2#8) := by
  obtain rfl | rfl | rfl := byte_of_le_two h <;> rfl

section
variable {sig : List Byte} (hsig : sig.length = 12) (params : Config.Params)
  (ver machine video x l0 l1 l2 l3 : Byte) (fam : Family) (p : Par)
include hsig

theorem recordHeader_tap :
    recordHeader params (sig ++ [ver, machine, video, x, l0, l1, l2, l3]) .tap fam p = { p with
      mode := .streamingPulses, cur := params.headerSize, format := .tap, family := fam, version := ver
      machine := machine, video := video, bps := 0#8, reserved := x
      rate := rateLookup (rateDec params) (headerComputer machine) (headerVideo video)
      dataLen := l3 ++ l2 ++ l1 ++ l0, profile := tapProfile ver, halfWaves := tapProfile ver == .tapV2 } := by
  simp only [recordHeader, byteAt_behind hsig _ 0, byteAt_behind hsig _ 1, byteAt_behind hsig _ 2,
    byteAt_behind hsig _ 3, headerWord_behind hsig, List.take, natWord_fromLE]
  rfl

theorem recordHeader_dmp :
    recordHeader params (sig ++ [ver, machine, video, x, l0, l1, l2, l3]) .dmp fam p = { p with
      mode := .streamingPulses, cur := params.headerSize, format := .dmp, family := fam, version := ver
      machine := machine, video := video, bps := x, reserved := 0#8, rate := l3 ++ l2 ++ l1 ++ l0
      dataLen := 0#32, profile := .dmp x.toNat, halfWaves := false } := by
  simp only [recordHeader, byteAt_behind hsig _ 0, byteAt_behind hsig _ 1, byteAt_behind hsig _ 2,
    byteAt_behind hsig _ 3, headerWord_behind hsig, List.take, natWord_fromLE]
  rfl

end

/-- Settles O42: the fields of a header that passes, read behind its signature. -/
theorem validHeadersAreRecorded : Obligations.ValidHeadersAreRecorded := by
  intro s b ver machine video x l0 l1 l2 l3 hspec hmode heos hroom
  have ⟨_, _, _, hsize, _⟩ := hspec
  have length_of : ∀ {sig : List Byte}, sig.length = 12 →
      s.par.buf ++ [b] = sig ++ [ver, machine, video, x, l0, l1, l2, l3] → s.par.buf.length = 19 := by
    intro sig hsig hbuf
    have hlen := congrArg List.length hbuf
    simp only [List.length_append, List.length_cons, List.length_nil, hsig] at hlen
    omega
  refine ⟨fun fam hbuf hver hmachine hvideo => ?_, fun hbuf hver hmachine hlow hhigh => ?_⟩
  · have hsig : s.par.buf ++ [b] = familySignature fam ++ [ver, machine, video, x, l0, l1, l2, l3] := by
      cases fam <;> exact hbuf
    have hallowed : machineAllowed .tap fam machine = true := by
      cases fam <;> exact decide_eq_true hmachine
    have hlen := familySignature_length fam
    have hvalid : validateHeader (s.par.buf ++ [b]) = .ok (.tap, fam) := by
      rw [hsig]
      exact validateHeader_tap_ok (by rw [← hlen, List.take_left]) (by rwa [byteAt_behind hlen _ 0])
        (by rwa [byteAt_behind hlen _ 1]) (by rwa [byteAt_behind hlen _ 2])
    rw [exec_parByte_starts hspec hmode heos (length_of hlen hsig) hroom hvalid]
    rw [hsig, recordHeader_tap hlen, hsize, tapProfile_eq_tapV2 hver,
      rateLookup_of_header hspec (machineAllowed_le hallowed) hvideo]
    rfl
  · have hlen : sigDmp.length = 12 := rfl
    have hvalid : validateHeader (s.par.buf ++ [b]) = .ok (.dmp, .c64) := by
      rw [hbuf]
      exact validateHeader_dmp_ok rfl (by rw [byteAt_behind hlen _ 0, hver]; rfl)
        (by rwa [byteAt_behind hlen _ 1]) (by rw [byteAt_behind hlen _ 3]; exact ⟨hlow, hhigh⟩)
    rw [exec_parByte_starts hspec hmode heos (length_of hlen hbuf) hroom hvalid, hbuf, recordHeader_dmp hlen, hsize]

end Sys2Proof.Proofs
end

section
/-! GEN command by command (44_framing.md R840 to R846): the stream a configuration names, and each outcome of
`GEN.START`, `GEN.PULSE` and `GEN.FINISH` as a whole next state. -/

namespace Sys2Proof.Proofs

open Sys2Proof.Machine Sys2Proof.Claims Sys2Proof.Laws

/-! ### The stream a configuration names -/

theorem genMachineField_eq (cfg : Word) : genMachineField cfg = cfg.toNat / 2 ^ 4 % 4 := by
  simp [genMachineField, Nat.shiftRight_eq_div_pow]

theorem genBps_eq (cfg : Word) : genBps cfg = cfg.toNat / 2 ^ 8 % 64 := by
  simp [genBps, Nat.shiftRight_eq_div_pow]

theorem genVideoField_eq (cfg : Word) : genVideoField cfg = cfgVideo cfg := rfl

/-- Every code but 3 names a machine (10_state.md R130). -/
theorem computerOfCode_cfgMachine {cfg : Word} (h : cfg.toNat / 2 ^ 4 % 4 ≠ 3) :
    computerOfCode (genMachineField cfg) = some (cfgMachine cfg) := by
  rw [genMachineField_eq, cfgMachine]
  have hlt : cfg.toNat / 2 ^ 4 % 4 < 4 := Nat.mod_lt _ (by decide)
  generalize cfg.toNat / 2 ^ 4 % 4 = code at h hlt
  obtain rfl | rfl | rfl : code = 0 ∨ code = 1 ∨ code = 2 := by omega
  · rfl
  · rfl
  · rfl

/-- A supported configuration has a machine, no two stream versions at once, and for DMP 1 to 32 bits per sample
(60_exceptions.md R910). -/
theorem unsupported_eq_false_iff (cfg : Word) :
    unsupported cfg = false ↔
      cfg.toNat / 2 ^ 4 % 4 ≠ 3
        ∧ (cfg.getLsbD 0 = false → ¬ (cfg.getLsbD 2 = true ∧ cfg.getLsbD 1 = true))
        ∧ (cfg.getLsbD 0 = true →
          cfg.getLsbD 1 = false ∧ 1 ≤ cfg.toNat / 2 ^ 8 % 64 ∧ cfg.toNat / 2 ^ 8 % 64 ≤ 32) := by
  unfold unsupported
  cases cfg.getLsbD 0 <;> cases cfg.getLsbD 1 <;> cases cfg.getLsbD 2 <;> simp

section
variable {params : Config.Params} {g : Gen} (hmachine : g.cfg.toNat / 2 ^ 4 % 4 ≠ 3)
include hmachine

/-- The stream of a TAP configuration (44_framing.md R840). -/
theorem streamPlan_tap (hformat : g.cfg.getLsbD 0 = false)
    (hversion : ¬ (g.cfg.getLsbD 2 = true ∧ g.cfg.getLsbD 1 = true)) :
    let ver : Byte := if g.cfg.getLsbD 2 then 0#8 else if g.cfg.getLsbD 1 then 2#8 else 1#8
    streamPlan params g = some
      { profile := if g.cfg.getLsbD 2 then .tapV0 else if g.cfg.getLsbD 1 then .tapV2 else .tapV1
        hdr := tapHeader (cfgMachine g.cfg) (cfgVideo g.cfg) ver 0
        rate := rateLookup params.rateEnc (cfgMachine g.cfg) (cfgVideo g.cfg)
        version := ver, machine := cfgMachine g.cfg, video := cfgVideo g.cfg } := by
  simp only [streamPlan, computerOfCode_cfgMachine hmachine, genFormatDmp, hformat, tapPlan, genForceV0, genHalf,
    genVideoField_eq]
  cases h2 : g.cfg.getLsbD 2 <;> cases h1 : g.cfg.getLsbD 1
  · rfl
  · rfl
  · rfl
  · exact absurd ⟨h2, h1⟩ hversion

/-- The stream of a DMP configuration (44_framing.md R840). -/
theorem streamPlan_dmp (hformat : g.cfg.getLsbD 0 = true) (hhalf : g.cfg.getLsbD 1 = false)
    (hbps : 1 ≤ g.cfg.toNat / 2 ^ 8 % 64 ∧ g.cfg.toNat / 2 ^ 8 % 64 ≤ 32) :
    streamPlan params g = some
      { profile := .dmp (g.cfg.toNat / 2 ^ 8 % 64)
        hdr := dmpHeader (cfgMachine g.cfg) (cfgVideo g.cfg) (g.cfg.toNat / 2 ^ 8 % 64) g.rateReg
        rate := g.rateReg
        version := 0#8, machine := cfgMachine g.cfg, video := cfgVideo g.cfg } := by
  simp only [streamPlan, computerOfCode_cfgMachine hmachine, genFormatDmp, hformat, if_true, dmpPlan, genHalf, hhalf,
    Bool.false_eq_true, if_false, genBps_eq, if_pos hbps, genVideoField_eq]

end

/-! ### The header bytes -/

theorem fourBytes_eq_leBytes (v : Nat) : fourBytes v = leBytes 4 v := by
  simp [fourBytes, leBytes, Nat.div_div_eq_div_mul]

theorem tapSignature_eq (m : Config.Computer) : tapSignature m = if m = .c16 then sigC16 else sigC64 := by
  cases m <;> rfl

theorem exceedsCap_eq_false_iff (cap : Option Nat) (n : Nat) :
    exceedsCap cap n = false ↔ ∀ c, cap = some c → n ≤ c := by
  cases cap <;> simp [exceedsCap]

/-! ### GEN.START -/

theorem exec_genStart_starts {s : State} {plan : StreamPlan} (hmode : s.gen.mode = .idle ∨ s.gen.mode = .done)
    (hplan : streamPlan s.params s.gen = some plan) (hroom : ∀ c, s.params.sinkCap = some c → 20 ≤ c) :
    exec .genStart s = .next { s with
      gen := { s.gen with
        sink := plan.hdr, hdr := plan.hdr, profile := plan.profile, version := plan.version, rate := plan.rate
        machine := plan.machine, video := plan.video, lossy := false, mode := .writing }
      response := ⟨.ok, []⟩ } := by
  have hopen : ¬ (s.gen.mode = .writing ∨ s.gen.mode = .faulted) := by
    obtain hmode | hmode := hmode <;> simp [hmode]
  have hfits : exceedsCap s.params.sinkCap plan.hdr.length = false := by
    rw [streamPlan_hdr_length hplan]
    exact (exceedsCap_eq_false_iff _ _).mpr hroom
  have hsink : sinkWrite [] 0 plan.hdr = plan.hdr := by rw [sinkWrite_zero, List.drop_nil, List.append_nil]
  simp only [exec, execGenStart, if_neg hopen, hplan, hfits, Bool.false_eq_true, if_false, respond_eq,
    genStarted, hsink]

/-- Settles O48: the stream a supported configuration names, latched with its header. -/
theorem genStartWritesTheHeader : Obligations.GenStartWritesTheHeader := by
  intro s hspec hmode hsupported hroom
  obtain ⟨hmachine, htap, hdmp⟩ := (unsupported_eq_false_iff s.gen.cfg).mp hsupported
  refine ⟨fun hformat => ?_, fun hformat => ?_⟩
  · rw [exec_genStart_starts hmode (streamPlan_tap hmachine hformat (htap hformat)) hroom]
    simp only [tapHeader, tapSignature_eq, List.append_assoc]
    rfl
  · obtain ⟨hhalf, hbps⟩ := hdmp hformat
    rw [exec_genStart_starts hmode (streamPlan_dmp hmachine hformat hhalf hbps) hroom]
    simp only [dmpHeader, ← fourBytes_eq_leBytes, List.append_assoc]
    rfl

/-! ### GEN.PULSE -/

section
variable {s : State} {p : Word} (hspec : SpecConstants s.params) (hmode : s.gen.mode = .writing)
include hspec hmode

theorem exec_genPulse_zero :
    exec (.genPulse 0#32) s = .next { s with
      gen := { s.gen with fZero := true, mode := .faulted }, response := ⟨.zeroPulse, []⟩ } := by
  obtain ⟨-, -, hwidth, -⟩ := hspec
  have hzero : pulseOperand s.params 0#32 = 0 := pulseOperand_of_spec hwidth _
  simp only [exec, execGenPulse, hmode, ne_eq, not_true_eq_false, if_false, if_pos hzero, raise_eq]
  rfl

/-- A pulse whose bytes fit is appended whole (44_framing.md R844). -/
theorem exec_genPulse_appends (hp : p ≠ 0#32)
    (hroom : genLengthExceeded s.params s.gen (ovfEncode s.params s.gen.profile p.toNat).1 = false) :
    exec (.genPulse p) s = .next { s with
      gen := { s.gen with
        sink := s.gen.sink ++ (ovfEncode s.params s.gen.profile p.toNat).1
        lossy := s.gen.lossy || !((ovfEncode s.params s.gen.profile p.toNat).2
          && !foldsIntoLast s.params s.gen (ovfEncode s.params s.gen.profile p.toNat).1) }
      response := ⟨.ok, []⟩ } := by
  obtain ⟨-, -, hwidth, -⟩ := hspec
  have hpos : p.toNat ≠ 0 := fun h => hp (BitVec.eq_of_toNat_eq h)
  simp only [exec, execGenPulse, hmode, ne_eq, not_true_eq_false, if_false, pulseOperand_of_spec hwidth, if_neg hpos,
    hroom, Bool.false_eq_true, genWptr, sinkWrite_end, respond_eq]

end

/-- The bytes fit when they pass neither the TAP length field nor the sink's capacity (44_framing.md R844). -/
theorem genLengthExceeded_eq_false_iff {params : Config.Params} (hsize : params.headerSize = 20) (g : Gen)
    (out : List Byte) :
    genLengthExceeded params g out = false ↔
      (isTap g.profile = true → g.sink.length + out.length ≤ 2 ^ 32 - 1 + 20)
        ∧ ∀ c, params.sinkCap = some c → g.sink.length + out.length ≤ c := by
  rw [genLengthExceeded, Bool.or_eq_false_iff, exceedsCap_eq_false_iff, hsize, genWptr, tapSectionMax_eq]
  cases isTap g.profile with
  | false => simp
  | true =>
    simp only [Bool.true_and, decide_eq_false_iff_not, Nat.not_lt, Nat.reducePow, Nat.reduceSub, forall_true_left]

theorem foldsIntoLast_of_ne {params : Config.Params} {g : Gen} (hprofile : g.profile ≠ .tapV0) (out : List Byte) :
    foldsIntoLast params g out = false := by
  simp [foldsIntoLast, hprofile]

/-- Settles O50: the zero pulse, and the bytes of the rules appended with their flag. -/
theorem genPulseAppendsTheEncoding : Obligations.GenPulseAppendsTheEncoding := by
  intro s p hspec hmode
  have ⟨_, _, _, hsize, _⟩ := hspec
  refine ⟨by rintro rfl; exact exec_genPulse_zero hspec hmode, ?_⟩
  intro hp _ out exact folds htap hcap
  have hbytes : ovfEncode s.params s.gen.profile p.toNat = (out, exact) :=
    ovfEncode_eq_pulseBytes hspec s.gen.profile p.toNat
  have hfolds : foldsIntoLast s.params s.gen out = decide folds := by
    by_cases hprofile : s.gen.profile = .tapV0
    · rw [Bool.eq_iff_iff, decide_eq_true_iff, foldsIntoLast_iff hsize hprofile]
      exact (and_iff_right hprofile).symm
    · rw [foldsIntoLast_of_ne hprofile]
      exact (decide_eq_false fun hfolds => hprofile hfolds.1).symm
  have hroom := (genLengthExceeded_eq_false_iff hsize s.gen out).mpr ⟨htap, hcap⟩
  rw [exec_genPulse_appends hspec hmode hp (by rwa [hbytes]), hbytes, hfolds]
  simp only [Bool.not_and, Bool.not_not, Bool.or_assoc]

/-! ### GEN.FINISH -/

section
variable {s : State}

theorem exec_genFinish_closed (hmode : s.gen.mode ≠ .writing) :
    exec .genFinish s = .next { s with response := ⟨.badState, []⟩ } := by
  simp only [exec, execGenFinish, if_pos hmode, refuse_eq]

theorem exec_genFinish_dmp (hmode : s.gen.mode = .writing) (hprofile : isTap s.gen.profile = false) :
    exec .genFinish s = .next { s with gen := { s.gen with mode := .done }, response := ⟨.ok, []⟩ } := by
  simp only [exec, execGenFinish, hmode, ne_eq, not_true_eq_false, if_false, hprofile, Bool.false_eq_true, respond_eq]

theorem exec_genFinish_tap (hspec : SpecConstants s.params) (hmode : s.gen.mode = .writing)
    (hprofile : isTap s.gen.profile = true) :
    let hdr := tapHeader s.gen.machine s.gen.video s.gen.version (s.gen.sink.length - 20)
    exec .genFinish s = .next { s with
      gen := { s.gen with sink := hdr ++ s.gen.sink.drop 20, hdr := hdr, mode := .done }, response := ⟨.ok, []⟩ } := by
  obtain ⟨-, -, -, hsize, -⟩ := hspec
  simp only [exec, execGenFinish, hmode, ne_eq, not_true_eq_false, if_false, hprofile, if_true, hsize, genWptr,
    sinkWrite_zero, tapHeader_length, respond_eq]

end

/-- Settles O52: the gate, and the ends of a DMP and of a TAP stream. -/
theorem genFinishWritesTheLength : Obligations.GenFinishWritesTheLength := by
  intro s hspec
  refine ⟨exec_genFinish_closed, exec_genFinish_dmp, fun hmode hprofile => ?_⟩
  rw [exec_genFinish_tap hspec hmode hprofile, tapHeader, ← fourBytes_eq_leBytes]
  cases s.gen.machine <;> cases s.gen.video <;> rfl

/-- Two TAP headers of one stream agree but for the length at offsets 16 to 19 (44_framing.md R841). -/
theorem tapHeader_split (m : Config.Computer) (v : Config.VideoStd) (ver : Byte) :
    ∃ head : List Byte, head.length = 16 ∧ ∀ len, tapHeader m v ver len = head ++ littleEndian 4 len := by
  refine ⟨tapSignature m ++ [ver, computerCode m, videoCode v, 0#8], by cases m <;> rfl, fun len => ?_⟩
  rw [tapHeader, littleEndian_eq_leBytes]

section
variable {head mid mid' tail : List Byte}

/-- A part replaced by one of its length leaves every byte outside it. -/
theorem readByte_outside (hlen : mid.length = mid'.length) {a : Nat}
    (ha : a < head.length ∨ head.length + mid.length ≤ a) :
    readByte (head ++ mid ++ tail) a = readByte (head ++ mid' ++ tail) a := by
  have hall : (head ++ mid).length = (head ++ mid').length := by rw [List.length_append, List.length_append, hlen]
  rw [readByte, readByte]
  obtain hleft | hright := ha
  · rw [List.append_assoc, List.append_assoc, List.getElem?_append_left hleft, List.getElem?_append_left hleft]
  · rw [List.getElem?_append_right (by simpa using hright), List.getElem?_append_right (by simpa [← hlen] using hright),
      hall]

theorem readByte_inside {j : Nat} (hj : j < mid.length) :
    readByte (head ++ mid ++ tail) (head.length + j) = mid[j]? := by
  rw [readByte, List.append_assoc, List.getElem?_append_right (Nat.le_add_right _ _), Nat.add_sub_cancel_left,
    List.getElem?_append_left hj]

end

/-- The sink of a TAP stream that is being written begins with the header of length 0 (44_framing.md R840). -/
theorem genOk_writing_sink {params : Config.Params} {g : Gen} (hok : GenOk params g) (hsize : params.headerSize = 20)
    (hmode : g.mode = .writing) (hprofile : isTap g.profile = true) :
    g.sink = tapHeader g.machine g.video g.version 0 ++ g.sink.drop 20 := by
  have hstarted := hok.sink_started (.inl hmode)
  obtain hempty | hheader := hok.sink_header
  · rw [hempty, hsize] at hstarted
    exact absurd hstarted (by decide)
  · rw [← hok.tap_placeholder hmode hprofile, ← hheader, hsize, List.take_append_drop]

/-- Settles O53: the header the sink begins with and the one written over it share their first 16 bytes. -/
theorem finishChangesOnlyTheLengthField : Obligations.FinishChangesOnlyTheLengthField := by
  intro s t hspec hok hmode h
  have ⟨_, _, _, hsize, _⟩ := hspec
  cases hprofile : isTap s.gen.profile with
  | false =>
    rw [exec_genFinish_dmp hmode hprofile] at h
    cases h
    exact ⟨fun _ _ => rfl, nofun⟩
  | true =>
    have hsink := genOk_writing_sink hok hsize hmode hprofile
    rw [exec_genFinish_tap hspec hmode hprofile] at h
    cases h
    obtain ⟨head, hhead, hheader⟩ := tapHeader_split s.gen.machine s.gen.video s.gen.version
    simp only [hheader, sinkByte] at hsink ⊢
    refine ⟨fun a ha => ?_, fun _ j hj => ?_⟩
    · have hlen : ∀ len, (littleEndian 4 len).length = 4 := littleEndian_length 4
      refine (readByte_outside ((hlen _).trans (hlen 0).symm) ?_).trans (congrArg (readByte · a) hsink.symm)
      rw [hhead, hlen]
      simpa using ha
    · rw [← hhead, readByte_inside (by rwa [littleEndian_length]), littleEndian, List.getElem?_map,
        List.getElem?_range hj]
      rfl

end Sys2Proof.Proofs
end

section
/-! What GEN writes for a list of pulses when it reports no fault and no loss (44_framing.md R840 to R846, R850): a
header and the bytes of the pulses, every pulse exact and no TAP v0 zero run behind another. -/

namespace Sys2Proof.Proofs

open Sys2Proof.Machine Sys2Proof.Claims Sys2Proof.Laws

/-! ### Commands that all answer OK -/

/-- Every command of the list answers OK. -/
def AllOk (commands : List Instr) (s : State) : Prop := ∀ r ∈ (performAll commands s).1, r.status = .ok

theorem performAll_cons (i : Instr) (rest : List Instr) (s : State) :
    performAll (i :: rest) s =
      ((perform i s).response :: (performAll rest (perform i s)).1, (performAll rest (perform i s)).2) := rfl

theorem allOk_cons (i : Instr) (rest : List Instr) (s : State) :
    AllOk (i :: rest) s ↔ (perform i s).response.status = .ok ∧ AllOk rest (perform i s) := by
  rw [AllOk, performAll_cons, List.forall_mem_cons, AllOk]

theorem allOk_append (xs ys : List Instr) (s : State) :
    AllOk (xs ++ ys) s ↔ AllOk xs s ∧ AllOk ys (performAll xs s).2 := by
  rw [AllOk, performAll_append, List.forall_mem_append, AllOk, AllOk]

theorem perform_params (i : Instr) (s : State) : (perform i s).params = s.params :=
  (exec_stateChange (exec_perform i s)).params

theorem performAll_params (commands : List Instr) (s : State) : (performAll commands s).2.params = s.params := by
  induction commands generalizing s with
  | nil => rfl
  | cons i rest ih => rw [performAll_cons, ih, perform_params]

theorem performAll_length (commands : List Instr) (s : State) :
    (performAll commands s).1.length = commands.length := by
  induction commands generalizing s with
  | nil => rfl
  | cons i rest ih => rw [performAll_cons, List.length_cons, ih, List.length_cons]

/-! ### What GEN's commands did when they answered OK -/

section
variable {s t : State}

theorem genStart_ok (h : exec .genStart s = .next t) (hok : t.response.status = .ok) :
    ∃ plan, streamPlan s.params s.gen = some plan ∧ t.gen = genStarted s.gen plan := by
  simp only [exec, execGenStart] at h
  split at h
  · cases h; cases hok
  · split at h
    · cases h; cases hok
    · next plan hplan =>
      split at h
      · cases h; cases hok
      · cases h; exact ⟨plan, hplan, rfl⟩

theorem genPulse_ok_fits {p : Word} (h : exec (.genPulse p) s = .next t) (hok : t.response.status = .ok) :
    pulseOperand s.params p ≠ 0
      ∧ genLengthExceeded s.params s.gen (ovfEncode s.params s.gen.profile (pulseOperand s.params p)).1 = false := by
  simp only [exec, execGenPulse] at h
  split at h
  · cases h; cases hok
  · split at h
    · cases h; cases hok
    · next hpos =>
      split at h
      · cases h; cases hok
      · next hroom => exact ⟨hpos, Bool.eq_false_of_not_eq_true hroom⟩

theorem genFinish_ok (hspec : SpecConstants s.params) (h : exec .genFinish s = .next t)
    (hok : t.response.status = .ok) :
    (isTap s.gen.profile = true →
        let hdr := tapHeader s.gen.machine s.gen.video s.gen.version (s.gen.sink.length - 20)
        t.gen = { s.gen with sink := hdr ++ s.gen.sink.drop 20, hdr := hdr, mode := .done })
      ∧ (isTap s.gen.profile = false → t.gen = { s.gen with mode := .done }) := by
  by_cases hmode : s.gen.mode = .writing
  · refine ⟨fun hprofile => ?_, fun hprofile => ?_⟩
    · rw [exec_genFinish_tap hspec hmode hprofile] at h
      cases h
      rfl
    · rw [exec_genFinish_dmp hmode hprofile] at h
      cases h
      rfl
  · rw [exec_genFinish_closed hmode] at h
    cases h
    cases hok

end

/-- A DMP stream starts with the header of its width and of GEN_RATE (44_framing.md R842). -/
theorem streamPlan_dmp_hdr {params : Config.Params} {g : Gen} {plan : StreamPlan}
    (h : streamPlan params g = some plan) {b : Nat} (hprofile : plan.profile = .dmp b) :
    plan.hdr = dmpHeader plan.machine plan.video b g.rateReg := by
  unfold streamPlan at h
  split at h
  · cases h
  · split at h
    · unfold dmpPlan at h
      split at h
      · cases h
      · split at h
        · cases h; cases hprofile; rfl
        · cases h
    · simp only [tapPlan, Option.map_eq_some_iff] at h
      obtain ⟨⟨profile, version⟩, hversion, rfl⟩ := h
      obtain rfl : profile = .dmp b := hprofile
      unfold tapStreamVersion at hversion
      split at hversion <;> cases hversion

/-! ### The bytes of a list of pulses -/

/-- The bytes of a list of pulses, one behind the other. -/
def streamBytes (params : Config.Params) (profile : Profile) (pulses : List Word) : List Byte :=
  pulses.flatMap fun p => (ovfEncode params profile p.toNat).1

theorem streamBytes_cons (params : Config.Params) (profile : Profile) (p : Word) (rest : List Word) :
    streamBytes params profile (p :: rest) =
      (ovfEncode params profile p.toNat).1 ++ streamBytes params profile rest := List.flatMap_cons

/-- Pulses whose bytes are exact, with no byte of a TAP v0 zero run right behind another run (43_overflow_codec.md R712,
70_reset_and_hazards.md R1010). -/
inductive LosslessPulses (params : Config.Params) (profile : Profile) : List Word → Prop where
  | nil : LosslessPulses params profile []
  | cons {p : Word} {rest : List Word} (pos : p ≠ 0#32) (exact : (ovfEncode params profile p.toNat).2 = true)
      (apart : profile = .tapV0 → 2048 ≤ p.toNat → zeroRun (streamBytes params profile rest) = 0)
      (tail : LosslessPulses params profile rest) : LosslessPulses params profile (p :: rest)

theorem zeroRun_of_head {bytes : List Byte} (h : bytes.head? ≠ some 0#8) : zeroRun bytes = 0 := by
  cases bytes with
  | nil => rfl
  | cons b rest => exact if_neg fun hb => h (by rw [hb, List.head?_cons])

theorem encodeTapV0_ne_nil {params : Config.Params} (hspec : SpecConstants params) (p : Nat) :
    (encodeTapV0 params p).1 ≠ [] := by
  rcases Nat.lt_or_ge p 8 with hp | hp
  · rw [encodeTapV0_below_scale hspec hp]
    exact List.cons_ne_nil _ _
  rcases Nat.lt_or_ge p 2048 with hp' | hp'
  · rw [encodeTapV0_narrow hspec hp hp']
    exact List.cons_ne_nil _ _
  · rw [encodeTapV0_zeros hspec hp']
    simp

/-- The last byte of a pulse of 2048 or more is a zero byte in TAP v0 (43_overflow_codec.md R712). -/
theorem readByte_last_zeros {params : Config.Params} (hspec : SpecConstants params) {p : Nat} (hp : 2048 ≤ p)
    (sink : List Byte) :
    readByte (sink ++ (encodeTapV0 params p).1) ((sink ++ (encodeTapV0 params p).1).length - 1) = some 0#8 := by
  rw [encodeTapV0_zeros hspec hp, readByte, ← List.getLast?_eq_getElem?]
  obtain ⟨n, hn⟩ : ∃ n, max 1 (p / params.v0ZeroValue) = n + 1 := ⟨_, (Nat.sub_add_cancel (Nat.le_max_left _ _)).symm⟩
  rw [hn, List.replicate_succ', ← List.append_assoc, List.getLast?_concat]

/-! ### The pulses written -/

/-- What GEN holds once a list of pulses is written with no fault and no loss. -/
structure PulsesWritten (params : Config.Params) (g : Gen) (pulses : List Word) (g' : Gen) : Prop where
  gen : g' = { g with sink := g.sink ++ streamBytes params g.profile pulses }
  lossless : LosslessPulses params g.profile pulses
  apart : g.profile = .tapV0 → 20 < g.sink.length → readByte g.sink (g.sink.length - 1) = some 0#8 →
    zeroRun (streamBytes params g.profile pulses) = 0
  bounded : isTap g.profile = true → g.sink.length ≤ 2 ^ 32 - 1 + 20 → g'.sink.length ≤ 2 ^ 32 - 1 + 20

/-- A pulse answered OK with `LOSSY` still clear is exact, folds into no run before it, and is appended within the
bounds (44_framing.md R844). -/
theorem genPulse_lossless {s t : State} {p : Word} (hspec : SpecConstants s.params)
    (h : exec (.genPulse p) s = .next t) (hok : t.response.status = .ok) (hlossy : t.gen.lossy = false) :
    let bytes := ovfEncode s.params s.gen.profile p.toNat
    p ≠ 0#32 ∧ bytes.2 = true ∧ foldsIntoLast s.params s.gen bytes.1 = false
      ∧ genLengthExceeded s.params s.gen bytes.1 = false
      ∧ t.gen = { s.gen with sink := s.gen.sink ++ bytes.1 } := by
  have ⟨_, _, hwidth, _⟩ := hspec
  have hgen := genPulse_ok h hok
  obtain ⟨hpos, hroom⟩ := genPulse_ok_fits h hok
  rw [pulseOperand_of_spec hwidth] at hpos hroom hgen
  have hclear := congrArg Gen.lossy hgen
  rw [hlossy, eq_comm, Bool.or_eq_false_iff, Bool.not_eq_false', Bool.and_eq_true, Bool.not_eq_true'] at hclear
  obtain ⟨-, hexact, hunfolded⟩ := hclear
  refine ⟨fun hp => hpos (by rw [hp]; rfl), hexact, hunfolded, hroom, ?_⟩
  rw [hgen, hexact, hunfolded]
  simp only [Bool.not_false, Bool.and_self, Bool.not_true, Bool.or_false]

section
variable {params : Config.Params} {g g' : Gen} (hspec : SpecConstants params)
include hspec

/-- A pulse put in front of the pulses written behind it (44_framing.md R844, 70_reset_and_hazards.md R1010). -/
theorem PulsesWritten.cons {p : Word} {rest : List Word} (hlen : 20 ≤ g.sink.length) (pos : p ≠ 0#32)
    (exact : (ovfEncode params g.profile p.toNat).2 = true)
    (unfolded : foldsIntoLast params g (ovfEncode params g.profile p.toNat).1 = false)
    (room : genLengthExceeded params g (ovfEncode params g.profile p.toNat).1 = false)
    (tail : PulsesWritten params { g with sink := g.sink ++ (ovfEncode params g.profile p.toNat).1 } rest g') :
    PulsesWritten params g (p :: rest) g' := by
  have ⟨_, _, _, hsize, _⟩ := hspec
  obtain ⟨hsection, -⟩ := (genLengthExceeded_eq_false_iff hsize g _).mp room
  exact {
    gen := by rw [tail.gen, streamBytes_cons, List.append_assoc]
    lossless := by
      refine .cons pos exact (fun hprofile hp => ?_) tail.lossless
      have hlast := readByte_last_zeros hspec hp g.sink
      have hout := List.length_pos_of_ne_nil (encodeTapV0_ne_nil hspec p.toNat)
      refine tail.apart hprofile ?_ ?_
      · simp only [hprofile, ovfEncode, List.length_append]
        omega
      · simpa only [hprofile, ovfEncode] using hlast
    apart := fun hprofile hstarted hlast => by
      have hhead : (ovfEncode params g.profile p.toNat).1.head? ≠ some 0#8 := fun hzero => by
        rw [(foldsIntoLast_iff hsize hprofile _).mpr ⟨hzero, hstarted, hlast⟩] at unfolded
        cases unfolded
      have hne : (ovfEncode params g.profile p.toNat).1 ≠ [] := by
        rw [hprofile]
        exact encodeTapV0_ne_nil hspec p.toNat
      rw [streamBytes_cons]
      refine zeroRun_of_head ?_
      rwa [List.head?_append_of_ne_nil _ hne]
    bounded := fun htap _ => tail.bounded htap (by simpa using hsection htap) }

end

theorem pulses_written {pulses : List Word} {s : State} (hspec : SpecConstants s.params)
    (hlen : 20 ≤ s.gen.sink.length) (hok : AllOk (pulses.map .genPulse) s)
    (hlossy : (performAll (pulses.map .genPulse) s).2.gen.lossy = false) :
    PulsesWritten s.params s.gen pulses (performAll (pulses.map .genPulse) s).2.gen := by
  induction pulses generalizing s with
  | nil =>
    exact {
      gen := by simp [performAll, streamBytes]
      lossless := .nil
      apart := fun _ _ _ => rfl
      bounded := fun _ => id }
  | cons p rest ih =>
    rw [List.map_cons, allOk_cons] at hok
    obtain ⟨hhead, hok⟩ := hok
    rw [List.map_cons, performAll_cons] at hlossy ⊢
    have hparams := perform_params (.genPulse p) s
    have hexec := exec_perform (.genPulse p) s
    have hsink : s.gen.sink.length ≤ (perform (.genPulse p) s).gen.sink.length := by
      rw [genPulse_ok hexec hhead]
      simp
    have tail := ih (hparams ▸ hspec) (hlen.trans hsink) hok hlossy
    have hclear : (perform (.genPulse p) s).gen.lossy = false := (congrArg Gen.lossy tail.gen).symm.trans hlossy
    obtain ⟨hpos, hexact, hunfolded, hroom, hgen⟩ := genPulse_lossless hspec hexec hhead hclear
    rw [hparams, hgen] at tail
    exact tail.cons hspec hlen hpos hexact hunfolded hroom

/-! ### The stream written -/

/-- What GEN holds behind a whole stream: the header of its format with the length of the pulse section, and the bytes
of the pulses. -/
structure StreamWritten (params : Config.Params) (rate : Word) (pulses : List Word) (g : Gen) : Prop where
  profile_ok : profileOk g.profile
  version_of_profile : g.version = profileVersion g.profile
  lossless : LosslessPulses params g.profile pulses
  tap : isTap g.profile = true →
    g.sink = tapHeader g.machine g.video g.version (streamBytes params g.profile pulses).length
        ++ streamBytes params g.profile pulses
      ∧ (streamBytes params g.profile pulses).length ≤ 2 ^ 32 - 1
  dmp : ∀ b, g.profile = .dmp b →
    g.sink = dmpHeader g.machine g.video b rate ++ streamBytes params g.profile pulses

theorem genStarted_sink (g : Gen) (plan : StreamPlan) : (genStarted g plan).sink = plan.hdr := by
  simp [genStarted, sinkWrite]

/-- A planned stream, its pulses and its end (44_framing.md R840, R844, R846). -/
theorem streamWritten_of_plan {params : Config.Params} {g g' g'' : Gen} {plan : StreamPlan} {pulses : List Word}
    (hplan : streamPlan params g = some plan) (hpulses : PulsesWritten params (genStarted g plan) pulses g')
    (htap : isTap g'.profile = true →
      let hdr := tapHeader g'.machine g'.video g'.version (g'.sink.length - 20)
      g'' = { g' with sink := hdr ++ g'.sink.drop 20, hdr := hdr, mode := .done })
    (hdmp : isTap g'.profile = false → g'' = { g' with mode := .done }) :
    StreamWritten params g.rateReg pulses g'' := by
  obtain ⟨hprofile, hversion, -⟩ := streamPlan_sound hplan
  have hlen := streamPlan_hdr_length hplan
  obtain ⟨hgen, hlossless, -, hbounded⟩ := hpulses
  rw [genStarted_sink] at hgen hbounded
  rw [genStarted_profile] at hgen hlossless hbounded
  have hsink := congrArg Gen.sink hgen
  have hformat : g'.profile = plan.profile := congrArg Gen.profile hgen
  cases htapOrDmp : isTap plan.profile with
  | true =>
    have hsection : g'.sink.length = 20 + (streamBytes params plan.profile pulses).length := by
      rw [hsink, List.length_append, hlen]
    have hdrop : g'.sink.drop 20 = streamBytes params plan.profile pulses := by rw [hsink, ← hlen, List.drop_left]
    have hbound := hbounded htapOrDmp (by omega)
    obtain rfl := htap (hformat ▸ htapOrDmp)
    rw [hdrop, hsection, Nat.add_sub_cancel_left, hgen]
    exact {
      profile_ok := hprofile
      version_of_profile := hversion
      lossless := hlossless
      tap := fun _ => ⟨rfl, by change (streamBytes params plan.profile pulses).length ≤ _; omega⟩
      dmp := fun b (hb : plan.profile = .dmp b) => by rw [hb] at htapOrDmp; cases htapOrDmp }
  | false =>
    obtain rfl := hdmp (hformat ▸ htapOrDmp)
    simp only [hgen]
    exact {
      profile_ok := hprofile
      version_of_profile := hversion
      lossless := hlossless
      tap := fun (h : isTap plan.profile = true) => by rw [h] at htapOrDmp; cases htapOrDmp
      dmp := fun b hb => congrArg (· ++ _) (streamPlan_dmp_hdr hplan hb) }

/-- A stream of GEN commands that all answer OK and lose nothing writes the header and the bytes of its pulses
(44_framing.md R850). -/
theorem stream_written {s : State} {pulses : List Word} (hspec : SpecConstants s.params)
    (hok : AllOk (.genReset :: writeStream pulses) s)
    (hlossy : (performAll (.genReset :: writeStream pulses) s).2.gen.lossy = false) :
    StreamWritten s.params s.gen.rateReg pulses (performAll (.genReset :: writeStream pulses) s).2.gen := by
  rw [writeStream, allOk_cons, allOk_cons, allOk_append] at hok
  obtain ⟨-, hstart, hpulses, hfinish⟩ := hok
  obtain ⟨hfinish, -⟩ := (allOk_cons _ _ _).mp hfinish
  rw [writeStream, performAll_cons, performAll_cons, performAll_append] at hlossy ⊢
  obtain ⟨plan, hplan, hstarted⟩ := genStart_ok (exec_perform .genStart (perform .genReset s)) hstart
  have hparams : (perform .genStart (perform .genReset s)).params = s.params := by rw [perform_params, perform_params]
  generalize perform .genStart (perform .genReset s) = started at *
  have hparams' := (performAll_params (pulses.map .genPulse) started).trans hparams
  obtain ⟨htap, hdmp⟩ := genFinish_ok (hparams' ▸ hspec) (exec_perform .genFinish _) hfinish
  have hclear : (performAll (pulses.map .genPulse) started).2.gen.lossy = false := by
    cases hprofile : isTap (performAll (pulses.map .genPulse) started).2.gen.profile with
    | true => exact (congrArg Gen.lossy (htap hprofile)).symm.trans hlossy
    | false => exact (congrArg Gen.lossy (hdmp hprofile)).symm.trans hlossy
  have hlen : 20 ≤ started.gen.sink.length := by rw [hstarted, genStarted_sink, streamPlan_hdr_length hplan]
  have hwritten := pulses_written (hparams ▸ hspec) hlen hpulses hclear
  rw [hparams, hstarted] at hwritten
  exact (streamWritten_of_plan hplan hwritten htap hdmp :)

end Sys2Proof.Proofs
end

section
/-! Generate then parse (44_framing.md R850): PAR fed the bytes GEN wrote records the fields of their header, and its
pulls give the pulses back. -/

namespace Sys2Proof.Proofs

open Sys2Proof.Machine Sys2Proof.Claims Sys2Proof.Laws

/-! ### The bytes fed -/

/-- Bytes that no header check ends on are put behind the buffer one by one (44_framing.md R820). -/
theorem parBytes_fed {bytes : List Byte} {s : State} (hspec : SpecConstants s.params)
    (hopen : parInputClosed s.par = false)
    (hroom : ∀ c, s.params.parBufCap = some c → s.par.buf.length + bytes.length ≤ c)
    (hheader : s.par.mode = .awaitingHeader → s.par.buf.length + bytes.length < 20) :
    (performAll (bytes.map .parByte) s).2.par = { s.par with buf := s.par.buf ++ bytes } := by
  induction bytes generalizing s with
  | nil => simp [performAll]
  | cons b rest ih =>
    have ⟨_, _, _, hsize, _⟩ := hspec
    have hroom' : s.params.parBufCap ≠ some (s.par.buf.length - s.par.cur) := fun hcap => by
      have hle := hroom _ hcap
      rw [List.length_cons] at hle
      omega
    have happends := exec_parByte_appends (b := b) hopen hroom' fun hmode => by
      have hlt := hheader hmode
      rw [List.length_cons] at hlt
      omega
    have hlen : (s.par.buf ++ [b]).length + rest.length = s.par.buf.length + (b :: rest).length := by
      simp only [List.length_append, List.length_cons, List.length_nil]
      omega
    rw [List.map_cons, performAll_cons, perform_of_exec happends]
    have htail := ih (s := { s with par := { s.par with buf := s.par.buf ++ [b] }, response := ⟨.ok, []⟩ }) hspec hopen
      (hlen ▸ hroom) (hlen ▸ hheader)
    exact htail.trans (by simp only [List.append_assoc, List.singleton_append])

/-! ### The header read -/

/-- PAR has recorded the header fields of a stream GEN wrote (44_framing.md R818, R850). -/
structure HeaderRead (params : Config.Params) (g : Gen) (rate : Word) (dataLen : Nat) (p : Par) : Prop where
  version : p.version = g.version
  machine : p.machine = computerCode g.machine
  video : p.video = videoCode g.video
  profile : p.profile = g.profile
  half : p.halfWaves = true ↔ g.profile = .tapV2
  tap : isTap g.profile = true →
    p.dataLen.toNat = dataLen ∧ p.rate = rateLookup (rateDec params) g.machine g.video ∧ p.bps = 0#8
  dmp : ∀ b, g.profile = .dmp b → p.rate = rate ∧ p.bps.toNat = b

/-- PAR streams with `cur` bytes of the buffer consumed. -/
structure Streaming (buf : List Byte) (cur : Nat) (p : Par) : Prop where
  mode : p.mode = .streamingPulses
  buf : p.buf = buf
  cur : p.cur = cur
  eos : p.eos = false

theorem natWord_fromLE_leBytes (n : Nat) : natWord (fromLE (leBytes 4 n)) = natWord n := by
  rw [fromLE_leBytes, natWord, natWord]
  exact BitVec.eq_of_toNat_eq (by simp)

theorem leBytes_four (n : Nat) :
    ∃ l0 l1 l2 l3 : Byte, leBytes 4 n = [l0, l1, l2, l3] ∧ l3 ++ l2 ++ l1 ++ l0 = natWord n :=
  ⟨_, _, _, _, rfl, by rw [← natWord_fromLE]; exact natWord_fromLE_leBytes n⟩

/-- The family of a machine's TAP signature (44_framing.md R841). -/
def machineFamily : Config.Computer → Family
  | .c64 => .c64
  | .vic20 => .c64
  | .c16 => .c16

theorem tapHeaderRate_eq {params : Config.Params} (hspec : SpecConstants params) (m : Config.Computer)
    (v : Config.VideoStd) :
    tapHeaderRate (computerCode m) (videoCode v) = rateLookup (rateDec params) m v := by
  have hm : (computerCode m).toNat ≤ 2 := by cases m <;> decide
  have hv : (videoCode v).toNat ≤ 1 := by cases v <;> decide
  rw [← rateLookup_of_header hspec hm hv]
  cases m <;> cases v <;> rfl

theorem profileVersion_le (profile : Profile) : (profileVersion profile).toNat ≤ 2 := by
  cases profile with
  | tapV0 | tapV1 | tapV2 => decide
  | dmp b => exact Nat.zero_le 2

theorem tapProfile_profileVersion {profile : Profile} (htap : isTap profile = true) :
    tapProfile (profileVersion profile) = profile := by
  cases profile with
  | tapV0 | tapV1 | tapV2 => rfl
  | dmp b => cases htap

section
variable {s : State} (hspec : SpecConstants s.params) (hreset : s.par = parReset)
  (hroom : ∀ c, s.params.parBufCap = some c → 20 ≤ c)
include hspec hreset hroom

/-- The first 19 bytes behind a reset are only kept (44_framing.md R805). -/
theorem header_fed {bytes : List Byte} (last : Byte) (hlen : bytes.length = 19) :
    ∃ t : State, SpecConstants t.params ∧ t.params = s.params ∧ t.par = { parReset with buf := bytes }
      ∧ t.params.parBufCap ≠ some (t.par.buf.length - t.par.cur)
      ∧ (performAll ((bytes ++ [last]).map .parByte) s).2 = perform (.parByte last) t := by
  have hfed := parBytes_fed (bytes := bytes) hspec (by rw [hreset]; rfl)
    (fun c hc => by have hle := hroom c hc; rw [hreset, hlen]; change 0 + 19 ≤ c; omega)
    (fun _ => by rw [hreset, hlen]; decide)
  have hparams := performAll_params (bytes.map .parByte) s
  have hpar : (performAll (bytes.map .parByte) s).2.par = { parReset with buf := bytes } := by
    rw [hfed, hreset]
    rfl
  refine ⟨_, hparams ▸ hspec, hparams, hpar, fun hcap => ?_, ?_⟩
  · rw [hparams, hpar] at hcap
    have hle := hroom _ hcap
    change 20 ≤ bytes.length - 0 at hle
    omega
  · rw [List.map_append, performAll_append]
    rfl

theorem tapHeader_read {g : Gen} {len : Nat} (htap : isTap g.profile = true)
    (hversion : g.version = profileVersion g.profile) (hlen : len ≤ 2 ^ 32 - 1) (rate : Word) :
    let hdr := tapHeader g.machine g.video g.version len
    let p := (performAll (hdr.map .parByte) s).2.par
    HeaderRead s.params g rate len p ∧ Streaming hdr 20 p := by
  intro hdr p
  obtain ⟨l0, l1, l2, l3, hbytes, hword⟩ := leBytes_four len
  obtain ⟨t, hspec', hparams, hpar, hroom', hfed⟩ := header_fed hspec hreset hroom l3
    (bytes := tapSignature g.machine ++ [g.version, computerCode g.machine, videoCode g.video, 0#8, l0, l1, l2])
    (by cases g.machine <;> rfl)
  have hhdr : hdr = tapSignature g.machine
      ++ [g.version, computerCode g.machine, videoCode g.video, 0#8, l0, l1, l2] ++ [l3] := by
    simp only [hdr, tapHeader, hbytes, List.append_assoc, List.cons_append, List.nil_append]
  have hbuf : t.par.buf ++ [l3] = hdr := by rw [hpar, hhdr]
  have hrecorded := (validHeadersAreRecorded t l3 g.version (computerCode g.machine) (videoCode g.video) 0#8 l0 l1 l2 l3
    hspec' (by rw [hpar]; rfl) (by rw [hpar]; rfl) hroom').1 (machineFamily g.machine)
    (by rw [hpar, List.append_assoc]; cases g.machine <;> rfl)
    (hversion ▸ profileVersion_le g.profile)
    (by cases g.machine with | c64 => exact Nat.zero_le 1 | vic20 => exact Nat.le_refl 1 | c16 => rfl)
    (by cases g.video <;> decide)
  have hprofile : tapProfile g.version = g.profile := by rw [hversion, tapProfile_profileVersion htap]
  have hp : p = (perform (.parByte l3) t).par := by rw [← hfed, ← hhdr]
  rw [perform_of_exec hrecorded] at hp
  rw [hp]
  exact {
    left := {
      version := rfl
      machine := rfl
      video := rfl
      profile := hprofile
      half := by
        rw [← hprofile, ← beq_iff_eq (b := Profile.tapV2), tapProfile_eq_tapV2 (hversion ▸ profileVersion_le g.profile)]
      tap := fun _ =>
        ⟨by simp only [hword]; exact natWord_toNat (by omega), tapHeaderRate_eq hspec g.machine g.video, rfl⟩
      dmp := fun b hb => by rw [hb] at htap; cases htap }
    right := ⟨rfl, hbuf, rfl, by simp [hpar, parReset]⟩ }

theorem dmpHeader_read {g : Gen} {b : Nat} (hprofile : g.profile = .dmp b) (hb : 1 ≤ b ∧ b ≤ 32)
    (hversion : g.version = 0#8) (rate : Word) (len : Nat) :
    let hdr := dmpHeader g.machine g.video b rate
    let p := (performAll (hdr.map .parByte) s).2.par
    HeaderRead s.params g rate len p ∧ Streaming hdr 20 p := by
  intro hdr p
  obtain ⟨l0, l1, l2, l3, hbytes, hword⟩ := leBytes_four rate.toNat
  obtain ⟨t, hspec', hparams, hpar, hroom', hfed⟩ := header_fed hspec hreset hroom l3
    (bytes := sigDmp ++ [0#8, computerCode g.machine, videoCode g.video, BitVec.ofNat 8 b, l0, l1, l2]) rfl
  have hhdr : hdr = sigDmp
      ++ [0#8, computerCode g.machine, videoCode g.video, BitVec.ofNat 8 b, l0, l1, l2] ++ [l3] := by
    simp only [hdr, dmpHeader, hbytes, List.append_assoc, List.cons_append, List.nil_append]
  have hbuf : t.par.buf ++ [l3] = hdr := by rw [hpar, hhdr]
  have hbits : (BitVec.ofNat 8 b).toNat = b := Nat.mod_eq_of_lt (by omega)
  have hrecorded := (validHeadersAreRecorded t l3 0#8 (computerCode g.machine) (videoCode g.video) (BitVec.ofNat 8 b)
    l0 l1 l2 l3 hspec' (by rw [hpar]; rfl) (by rw [hpar]; rfl) hroom').2
    (by rw [hpar, List.append_assoc]; rfl) rfl (by cases g.machine <;> decide) (by omega) (by omega)
  have hp : p = (perform (.parByte l3) t).par := by rw [← hfed, ← hhdr]
  rw [perform_of_exec hrecorded] at hp
  rw [hp]
  exact {
    left := {
      version := hversion.symm
      machine := rfl
      video := rfl
      profile := by simp only [hprofile, hbits]
      half := by simp [hprofile]
      tap := fun htap => by rw [hprofile] at htap; cases htap
      dmp := fun b' hb' => by
        rw [hprofile] at hb'
        cases hb'
        exact ⟨by simp only [hword]; simp [natWord], hbits⟩ }
    right := ⟨rfl, hbuf, rfl, by simp [hpar, parReset]⟩ }

end

/-! ### The pulses pulled -/

/-- At the end of input the first of a list of lossless pulses is decoded to it (43_overflow_codec.md R725, R736). -/
theorem LosslessPulses.decode_head {params : Config.Params} (hspec : SpecConstants params) {profile : Profile}
    (hprofile : profileOk profile) {p : Word} {rest : List Word} (h : LosslessPulses params profile (p :: rest))
    (before : List Byte) :
    ovfDecode params profile (before ++ streamBytes params profile (p :: rest)) before.length true
      = .pulse p.toNat (before.length + (ovfEncode params profile p.toNat).1.length) := by
  obtain _ | ⟨hpos, hexact, hapart, -⟩ := h
  have hlt := p.isLt
  have hpos : 1 ≤ p.toNat := Nat.one_le_iff_ne_zero.mpr fun h => hpos (BitVec.eq_of_toNat_eq h)
  have lossless : losslessProfile profile → ovfDecode params profile
      (before ++ streamBytes params profile (p :: rest)) before.length true
      = .pulse p.toNat (before.length + (ovfEncode params profile p.toNat).1.length) := fun hlossless => by
    have hround := (overflowRoundTrip params p.toNat profile hspec hpos (by omega)).2 hlossless before
      (streamBytes params profile rest) true
    rwa [streamBytes_cons, ← List.append_assoc]
  cases profile with
  | tapV1 => exact lossless trivial
  | tapV2 => exact lossless trivial
  | dmp b => exact lossless hprofile
  | tapV0 =>
    rw [streamBytes_cons, ovfDecode_tapV0_append]
    rw [ovfEncode] at hexact ⊢
    rcases Nat.lt_or_ge p.toNat 8 with hp | hp
    · rw [encodeTapV0_below_scale hspec hp] at hexact
      cases hexact
    rcases Nat.lt_or_ge p.toNat 2048 with hp' | hp'
    · rw [encodeTapV0_narrow hspec hp hp'] at hexact ⊢
      have hdvd : 8 ∣ p.toNat := of_decide_eq_true hexact
      have hbyte : (BitVec.ofNat 8 (p.toNat / 8)).toNat = p.toNat / 8 := Nat.mod_eq_of_lt (by omega)
      have hne : BitVec.ofNat 8 (p.toNat / 8) ≠ 0#8 := fun h => by rw [h] at hbyte; simp at hbyte; omega
      rw [List.singleton_append, decodeTapV0_nonzero_pulse hspec hne, hbyte, Nat.mul_div_cancel' hdvd]
      rfl
    · rw [encodeTapV0_zeros hspec hp'] at hexact ⊢
      have hvalue := of_decide_eq_true hexact
      rw [decodeTapV0_closedRun hspec (Nat.le_max_left _ _) (hapart rfl hp') _ (.inr rfl), ← hvalue, judged,
        if_neg (by omega), if_neg (by omega), List.length_replicate]

/-- Behind the end of input the pulls answer the pulses one by one and then END (44_framing.md R822, R850). -/
theorem pulses_pulled {pulses : List Word} {s : State} (hspec : SpecConstants s.params)
    (hprofile : profileOk s.par.profile) (hmode : s.par.mode = .streamingPulses) (heos : s.par.eos = true)
    {before : List Byte} (hbuf : s.par.buf = before ++ streamBytes s.params s.par.profile pulses)
    (hcur : s.par.cur = before.length) (hlossless : LosslessPulses s.params s.par.profile pulses) :
    let pulled := performAll (List.replicate (pulses.length + 1) .parPull) s
    pulled.1 = pulses.map (fun v => ⟨.ok, [v]⟩) ++ [⟨.endOfStream, []⟩]
      ∧ pulled.2.par = { s.par with cur := s.par.buf.length, mode := .done } := by
  induction pulses generalizing s before with
  | nil =>
    have hend : s.par.cur = s.par.buf.length := by rw [hcur, hbuf]; exact (List.append_nil before).symm ▸ rfl
    have hexec := exec_parPull_needMore hmode hprofile (ovfDecode_of_length_le hend.ge)
    rw [parNeedMore_ended heos, if_pos hend] at hexec
    have hperform := perform_of_exec hexec
    simp only [List.length_nil, List.replicate, performAll, hperform]
    exact ⟨rfl, by rw [← hend]⟩
  | cons p rest ih =>
    have hdecode := hlossless.decode_head hspec hprofile before
    rw [← hbuf, ← hcur, ← heos] at hdecode
    have hexec := exec_parPull_pulse hmode hprofile hdecode
    have hperform := perform_of_exec hexec
    rw [List.length_cons, List.replicate_succ, performAll_cons, hperform]
    obtain _ | ⟨-, -, -, htail⟩ := hlossless
    have hrest := ih (s := { s with
        par := { s.par with cur := s.par.cur + (ovfEncode s.params s.par.profile p.toNat).1.length }
        response := ⟨.ok, [natWord p.toNat]⟩ }) (before := before ++ (ovfEncode s.params s.par.profile p.toNat).1)
      hspec hprofile hmode heos (by rw [List.append_assoc, ← streamBytes_cons]; exact hbuf)
      (by rw [List.length_append, ← hcur]) htail
    obtain ⟨hresponses, hpar⟩ := hrest
    refine ⟨?_, hpar⟩
    have hword : natWord p.toNat = p := BitVec.ofNat_toNat _ _
    rw [hresponses, hword]
    rfl

/-! ### The stream read back -/

/-- The header fields are no part of how far PAR has read. -/
theorem HeaderRead.of_progress {params : Config.Params} {g : Gen} {rate : Word} {dataLen : Nat} {p : Par}
    (h : HeaderRead params g rate dataLen p) (buf : List Byte) (cur : Nat) (eos : Bool) (mode : ParMode) :
    HeaderRead params g rate dataLen { p with buf := buf, cur := cur, eos := eos, mode := mode } :=
  ⟨h.version, h.machine, h.video, h.profile, h.half, h.tap, h.dmp⟩

section
variable {s : State} {g : Gen} {rate : Word} {dataLen : Nat} {hdr : List Byte} {pulses : List Word}
  (hspec : SpecConstants s.params)
include hspec

/-- Once the header is read, the bytes behind it are only kept (44_framing.md R820). -/
theorem stream_fed {bytes : List Byte} (hstreaming : Streaming hdr 20 (performAll (hdr.map .parByte) s).2.par)
    (hroom : ∀ c, s.params.parBufCap = some c → (hdr ++ bytes).length ≤ c) :
    (performAll ((hdr ++ bytes).map .parByte) s).2.par
      = { (performAll (hdr.map .parByte) s).2.par with buf := hdr ++ bytes } := by
  obtain ⟨hmode, hbuf, -, heos⟩ := hstreaming
  have hparams := performAll_params (hdr.map .parByte) s
  have hopen := (parInputClosed_eq_false_iff _).mpr ⟨heos, .inr hmode⟩
  rw [List.map_append, performAll_append, parBytes_fed (hparams ▸ hspec) hopen ?_ ?_, hbuf]
  · rw [hparams, hbuf, ← List.length_append]
    exact hroom
  · rw [hmode]
    exact nofun

/-- Behind a header that is read, the bytes of lossless pulses and the end of input, the pulls give the pulses and then
END (44_framing.md R850). -/
theorem stream_read
    (hheader : HeaderRead s.params g rate dataLen (performAll (hdr.map .parByte) s).2.par
      ∧ Streaming hdr 20 (performAll (hdr.map .parByte) s).2.par)
    (hlen : hdr.length = 20) (hprofile : profileOk g.profile) (hlossless : LosslessPulses s.params g.profile pulses)
    (hroom : ∀ c, s.params.parBufCap = some c → (hdr ++ streamBytes s.params g.profile pulses).length ≤ c) :
    let bytes := hdr ++ streamBytes s.params g.profile pulses
    let read := performAll (readStream bytes (pulses.length + 1)) s
    read.1.drop (bytes.length + 1) = pulses.map (fun v => ⟨.ok, [v]⟩) ++ [⟨.endOfStream, []⟩]
      ∧ HeaderRead s.params g rate dataLen read.2.par := by
  intro bytes read
  obtain ⟨hread, hstreaming⟩ := hheader
  have hfed : (performAll (bytes.map .parByte) s).2.par
      = { (performAll (hdr.map .parByte) s).2.par with buf := bytes } := stream_fed hspec hstreaming hroom
  obtain ⟨hmode, -, hcur, heos⟩ := hstreaming
  have hparams := performAll_params (bytes.map .parByte) s
  have hanswers := performAll_length (bytes.map .parByte) s
  rw [List.length_map] at hanswers
  have hsplit : read = performAll
      (bytes.map .parByte ++ .parEos :: List.replicate (pulses.length + 1) .parPull) s := rfl
  rw [performAll_append] at hsplit
  generalize performAll (bytes.map .parByte) s = fed at *
  generalize (performAll (hdr.map .parByte) s).2.par = p at *
  have hended := perform_of_exec (exec_parEos_streaming (s := fed.2) (hfed ▸ heos) (hfed ▸ hmode))
  rw [performAll_cons, hended, hfed] at hsplit
  rw [← hread.profile] at hprofile
  obtain ⟨hresponses, hpar⟩ := pulses_pulled (pulses := pulses) (before := hdr)
    (s := { fed.2 with par := { p with buf := bytes, eos := true }, response := ⟨.ok, []⟩ })
    (hparams ▸ hspec) hprofile hmode rfl (by simp only [hparams, hread.profile]; rfl) (hcur.trans hlen.symm)
    (by simp only [hparams, hread.profile]; exact hlossless)
  rw [hsplit]
  refine ⟨?_, ?_⟩
  · simp only [hresponses]
    rw [← List.singleton_append, ← List.append_assoc, List.drop_left' (by simp [hanswers])]
  · simp only [hpar]
    exact hread.of_progress _ _ _ _

end

theorem dmpHeader_length (m : Config.Computer) (v : Config.VideoStd) (b : Nat) (rate : Word) :
    (dmpHeader m v b rate).length = 20 := by
  rw [dmpHeader, List.length_append, leBytes_length]
  rfl

theorem dmp_of_not_isTap {profile : Profile} (h : isTap profile = false) : ∃ b, profile = .dmp b := by
  cases profile with
  | tapV0 | tapV1 | tapV2 => cases h
  | dmp b => exact ⟨b, rfl⟩

/-- PAR reads back the header of a written stream, and the TAP length field with it (44_framing.md R818, R846). -/
theorem StreamWritten.header_read {s : State} {g : Gen} {rate : Word} {pulses : List Word}
    (h : StreamWritten s.params rate pulses g) (hspec : SpecConstants s.params) (hreset : s.par = parReset)
    (hroom : ∀ c, s.params.parBufCap = some c → g.sink.length ≤ c) :
    ∃ hdr, hdr.length = 20 ∧ g.sink = hdr ++ streamBytes s.params g.profile pulses
      ∧ HeaderRead s.params g rate (g.sink.length - 20) (performAll (hdr.map .parByte) s).2.par
      ∧ Streaming hdr 20 (performAll (hdr.map .parByte) s).2.par := by
  have fits : ∀ {hdr : List Byte}, hdr.length = 20 → g.sink = hdr ++ streamBytes s.params g.profile pulses →
      ∀ c, s.params.parBufCap = some c → 20 ≤ c := fun hlen hsink c hc => by
    have hle := hroom c hc
    rw [hsink, List.length_append, hlen] at hle
    omega
  cases htap : isTap g.profile with
  | true =>
    obtain ⟨hsink, hbound⟩ := h.tap htap
    have hlen := tapHeader_length g.machine g.video g.version (streamBytes s.params g.profile pulses).length
    refine ⟨_, hlen, hsink, ?_⟩
    rw [hsink, List.length_append, hlen, Nat.add_sub_cancel_left]
    exact tapHeader_read hspec hreset (fits hlen hsink) htap h.version_of_profile hbound rate
  | false =>
    obtain ⟨b, hprofile⟩ := dmp_of_not_isTap htap
    have hlen := dmpHeader_length g.machine g.video b rate
    have hversion := h.version_of_profile
    have hbits := h.profile_ok
    rw [hprofile] at hversion hbits
    exact ⟨_, hlen, h.dmp b hprofile,
      dmpHeader_read hspec hreset (fits hlen (h.dmp b hprofile)) hprofile hbits hversion rate _⟩

/-- Settles O55: what GEN writes is a header and the bytes of lossless pulses, and PAR reads both back. -/
theorem generateThenParse : Obligations.GenerateThenParse := by
  intro s pulses hspec written hok hlossy hroom g read p
  have hwritten := stream_written hspec hok hlossy
  have hparams : (perform .parReset written.2).params = s.params :=
    (perform_params .parReset written.2).trans (performAll_params _ s)
  rw [← hparams] at hspec hroom hwritten
  obtain ⟨hdr, hlen, hsink, hheader⟩ := hwritten.header_read hspec rfl hroom
  obtain ⟨hresponses, hread⟩ := stream_read hspec hheader hlen hwritten.profile_ok hwritten.lossless
    (by rw [← hsink]; exact hroom)
  rw [← hsink] at hresponses hread
  rw [← hparams]
  exact ⟨hresponses, hread.version, hread.machine, hread.video, hread.profile, hread.half, hread.tap, hread.dmp⟩

end Sys2Proof.Proofs
end

section
/-! The register map against its numbers (10_state.md R106): `BAD_REG` is the answer to every number outside it, and to
a write of every number that is no RW register (60_exceptions.md R903). -/

namespace Sys2Proof.Proofs

open Sys2Proof.Machine Sys2Proof.Claims Sys2Proof.Laws

theorem regNumber_mem_mappedNumbers (r : Reg) : regNumber r ∈ mappedNumbers := by
  cases r <;> decide

/-- A register that a write changes is an RW register (10_state.md R106, R107). -/
theorem regNumber_mem_writableNumbers {r : Reg} {v : Word} {s t : State} (h : writeReg r v s = some t) :
    regNumber r ∈ writableNumbers := by
  cases r with
  | encCtrl | encSens | encMinDur | encThresh | decCtrl | decVolume | genCfg | genRate => decide
  | _ => cases h

theorem regOfNumber_eq_none {n : Byte} (h : n ∉ mappedNumbers) : regOfNumber n = none := by
  refine Option.eq_none_iff_forall_ne_some.mpr fun r hr => h ?_
  rw [← regOfNumber_some hr]
  exact regNumber_mem_mappedNumbers r

theorem regOfNumber_bind_writeReg_eq_none {n : Byte} (h : n ∉ writableNumbers) (v : Word) (s : State) :
    (regOfNumber n).bind (fun r => writeReg r v s) = none := by
  refine Option.eq_none_iff_forall_ne_some.mpr fun t ht => h ?_
  obtain ⟨r, hr, hwrite⟩ := Option.bind_eq_some_iff.mp ht
  rw [← regOfNumber_some hr]
  exact regNumber_mem_writableNumbers hwrite

/-- Settles O13: no register has the number of a refused read, and no writable one the number of a refused write. -/
theorem badRegistersAreRefused : Obligations.BadRegistersAreRefused := by
  refine fun s n v => ⟨fun hn => ?_, fun hn => ?_⟩
  · simp only [exec, execCfgRd, regOfNumber_eq_none hn, refuse_eq]
  · simp only [exec, execCfgWr, regOfNumber_bind_writeReg_eq_none hn, refuse_eq]

end Sys2Proof.Proofs
end

section
/-! The faults of ENC and GEN as whole next states (60_exceptions.md R910, R912, R914). -/

namespace Sys2Proof.Proofs

open Sys2Proof.Machine Sys2Proof.Claims Sys2Proof.Laws

/-! ### COUNTER_OVERFLOW -/

/-- Settles O23: the overflowing sample keeps the full count, and ENC_COUNT reads the count of any state. -/
theorem encCounterOverflowFaults : Obligations.EncCounterOverflowFaults := by
  intro s sample hspec x t hrun hfull hemits
  obtain ⟨-, -, -, -, -, hcount, -⟩ := sampleTracked_frame s.enc x
  refine ⟨?_, exec_cfgRd_regNumber .encCount t⟩
  rw [exec_encSample_overflows hspec hrun hemits hfull]
  simp only [t, x, ← hfull, ← hcount]

/-! ### UNSUPPORTED_CONFIG -/

theorem tapPlan_eq_none_iff (params : Config.Params) (g : Gen) (m : Config.Computer) :
    tapPlan params g m = none ↔ g.cfg.getLsbD 2 = true ∧ g.cfg.getLsbD 1 = true := by
  rw [tapPlan, Option.map_eq_none_iff, genForceV0, genHalf]
  cases g.cfg.getLsbD 2 <;> cases g.cfg.getLsbD 1 <;> simp [tapStreamVersion]

theorem dmpPlan_eq_none_iff (g : Gen) (m : Config.Computer) :
    dmpPlan g m = none ↔
      g.cfg.getLsbD 1 = true ∨ ¬ (1 ≤ g.cfg.toNat / 2 ^ 8 % 64 ∧ g.cfg.toNat / 2 ^ 8 % 64 ≤ 32) := by
  rw [dmpPlan, genHalf, genBps_eq]
  split
  · next hhalf => exact iff_of_true rfl (.inl hhalf)
  · next hhalf =>
    split
    · next hbps => exact iff_of_false nofun (not_or.mpr ⟨hhalf, not_not.mpr hbps⟩)
    · next hbps => exact iff_of_true rfl (.inr hbps)

/-- A configuration names no stream exactly when it is unsupported (44_framing.md R840, 60_exceptions.md R910). -/
theorem streamPlan_eq_none_iff (params : Config.Params) (g : Gen) :
    streamPlan params g = none ↔ unsupported g.cfg = true := by
  rw [← Bool.not_eq_false, unsupported_eq_false_iff]
  by_cases hmachine : g.cfg.toNat / 2 ^ 4 % 4 = 3
  · have hcode : computerOfCode (genMachineField g.cfg) = none := by rw [genMachineField_eq, hmachine]; rfl
    exact iff_of_true (by rw [streamPlan, hcode]) fun ⟨hne, _⟩ => hne hmachine
  · simp only [streamPlan, computerOfCode_cfgMachine hmachine]
    split
    · next hdmp =>
      rw [genFormatDmp] at hdmp
      simp only [dmpPlan_eq_none_iff, hdmp, ← Bool.not_eq_true]
      tauto
    · next htap =>
      rw [genFormatDmp] at htap
      simp only [tapPlan_eq_none_iff, htap, ← Bool.not_eq_true]
      tauto

/-- The two modes that accept `GEN.START` are the two it does not refuse (60_exceptions.md R906). -/
theorem not_writing_or_faulted_iff (m : GenMode) : ¬ (m = .writing ∨ m = .faulted) ↔ m = .idle ∨ m = .done := by
  cases m <;> decide

section
variable {s : State} (hmode : s.gen.mode = .idle ∨ s.gen.mode = .done)
include hmode

theorem exec_genStart_unsupported (hunsupported : unsupported s.gen.cfg = true) :
    exec .genStart s = .next { s with
      gen := { s.gen with fUnsupported := true, mode := .faulted }, response := ⟨.unsupportedConfig, []⟩ } := by
  have hopen := (not_writing_or_faulted_iff s.gen.mode).mpr hmode
  have hplan := (streamPlan_eq_none_iff s.params s.gen).mpr hunsupported
  simp only [exec, execGenStart, if_neg hopen, hplan, raise_eq, faultEffect_unsupportedConfig, faultStatus]

theorem exec_genStart_noRoom (hsupported : unsupported s.gen.cfg = false)
    (hfull : exceedsCap s.params.sinkCap 20 = true) :
    exec .genStart s = .next { s with
      gen := { s.gen with fLength := true, mode := .faulted }, response := ⟨.lengthOverflow, []⟩ } := by
  have hopen := (not_writing_or_faulted_iff s.gen.mode).mpr hmode
  have hplan : streamPlan s.params s.gen ≠ none := by
    rw [Ne, streamPlan_eq_none_iff, hsupported]
    exact Bool.false_ne_true
  obtain ⟨plan, hplan⟩ := Option.ne_none_iff_exists'.mp hplan
  simp only [exec, execGenStart, if_neg hopen, hplan, streamPlan_hdr_length hplan, if_pos hfull, raise_eq,
    faultEffect_lengthOverflow, faultStatus]

end

/-- Settles O49: a start of a configuration that names no stream. -/
theorem unsupportedConfigurationsFault : Obligations.UnsupportedConfigurationsFault :=
  fun _ hmode hunsupported => exec_genStart_unsupported hmode hunsupported

/-! ### LENGTH_OVERFLOW -/

theorem exceedsCap_eq_true {cap : Option Nat} {c n : Nat} (hcap : cap = some c) (hn : c < n) :
    exceedsCap cap n = true := by
  rw [hcap]
  exact decide_eq_true hn

/-- Bytes that pass the TAP length field or the sink's capacity (44_framing.md R844, 60_exceptions.md R914). -/
theorem genLengthExceeded_eq_true {params : Config.Params} (hsize : params.headerSize = 20) {g : Gen} {out : List Byte}
    (hexceeds : (isTap g.profile = true ∧ 2 ^ 32 - 1 + 20 < g.sink.length + out.length)
      ∨ ∃ c, params.sinkCap = some c ∧ c < g.sink.length + out.length) :
    genLengthExceeded params g out = true := by
  by_contra hfits
  obtain ⟨htap, hcap⟩ := (genLengthExceeded_eq_false_iff hsize g out).mp (Bool.eq_false_of_not_eq_true hfits)
  obtain ⟨hprofile, hlong⟩ | ⟨c, hc, hlong⟩ := hexceeds
  · exact absurd hlong (Nat.not_lt.mpr (htap hprofile))
  · exact absurd hlong (Nat.not_lt.mpr (hcap c hc))

/-- A pulse whose bytes do not fit leaves the sink as it is (60_exceptions.md R914). -/
theorem exec_genPulse_noRoom {s : State} {p : Word} (hspec : SpecConstants s.params) (hmode : s.gen.mode = .writing)
    (hp : p ≠ 0#32)
    (hexceeds : genLengthExceeded s.params s.gen (ovfEncode s.params s.gen.profile p.toNat).1 = true) :
    exec (.genPulse p) s = .next { s with
      gen := { s.gen with fLength := true, mode := .faulted }, response := ⟨.lengthOverflow, []⟩ } := by
  obtain ⟨-, -, hwidth, -⟩ := hspec
  have hpos : p.toNat ≠ 0 := fun h => hp (BitVec.eq_of_toNat_eq h)
  simp only [exec, execGenPulse, hmode, ne_eq, not_true_eq_false, if_false, pulseOperand_of_spec hwidth, if_neg hpos,
    if_pos hexceeds, raise_eq, faultEffect_lengthOverflow, faultStatus]

/-- Settles O51: the pulse's bytes are those the machine writes, and neither they nor a header fit. -/
theorem lengthOverflowWritesNothing : Obligations.LengthOverflowWritesNothing := by
  intro s hspec faulted lengthWith
  have ⟨_, _, _, hsize, _⟩ := hspec
  refine ⟨fun p hmode hp _ hlong => ?_, fun hmode hsupported ⟨c, hcap, hc⟩ => ?_⟩
  · refine exec_genPulse_noRoom hspec hmode hp (genLengthExceeded_eq_true hsize ?_)
    rw [ovfEncode_eq_pulseBytes hspec]
    exact hlong
  · exact exec_genStart_noRoom hmode hsupported (exceedsCap_eq_true hcap hc)

end Sys2Proof.Proofs
end

section
/-! What answers a refusal (60_exceptions.md R903 to R907): the gates of the units' modes, the causes of `BUSY`, and the
commands past both, so that every command's outcome is one of four. -/

namespace Sys2Proof.Proofs

open Sys2Proof.Machine Sys2Proof.Claims Sys2Proof.Laws

/-! ### BAD_STATE -/

theorem gateOpen_parByte (b : Byte) (s : State) : gateOpen (.parByte b) s = !parInputClosed s.par := by
  cases hmode : s.par.mode <;> cases heos : s.par.eos <;> simp [gateOpen, parInputClosed, hmode, heos]

theorem gateOpen_parEos (s : State) : gateOpen .parEos s = !parInputClosed s.par := gateOpen_parByte 0#8 s

theorem gateOpen_genStart_iff (s : State) :
    gateOpen .genStart s = true ↔ s.gen.mode = .idle ∨ s.gen.mode = .done := by
  simp only [gateOpen, Bool.or_eq_true, beq_iff_eq]

theorem exec_genStart_closed {s : State} (hmode : ¬ (s.gen.mode = .idle ∨ s.gen.mode = .done)) :
    exec .genStart s = .next { s with response := ⟨.badState, []⟩ } := by
  have hclosed := not_not.mp (mt (not_writing_or_faulted_iff s.gen.mode).mp hmode)
  simp only [exec, execGenStart, if_pos hclosed, refuse_eq]

theorem exec_genPulse_closed {s : State} {p : Word} (hmode : s.gen.mode ≠ .writing) :
    exec (.genPulse p) s = .next { s with response := ⟨.badState, []⟩ } := by
  simp only [exec, execGenPulse, if_pos hmode, refuse_eq]

/-- Behind a closed gate every command is refused with `BAD_STATE` (60_exceptions.md R906). -/
theorem exec_gateClosed {i : Instr} {s : State} (hclosed : gateOpen i s = false) :
    exec i s = .next { s with response := ⟨.badState, []⟩ } := by
  cases i with
  | encSample x => exact exec_encSample_closed (beq_eq_false_iff_ne.mp hclosed) x
  | encFlush => exact exec_encFlush_closed (beq_eq_false_iff_ne.mp hclosed)
  | decPulse p => exact exec_decPulse_closed (beq_eq_false_iff_ne.mp hclosed)
  | decPull n => exact exec_decPull_closed (beq_eq_false_iff_ne.mp hclosed)
  | parByte b => exact exec_parByte_closed (by simpa [gateOpen_parByte] using hclosed)
  | parEos => exact exec_parEos_closed (by simpa [gateOpen_parEos] using hclosed)
  | parPull =>
    refine exec_parPull_invalid ?_
    cases hmode : s.par.mode <;> simp [gateOpen, hmode] at hclosed ⊢
  | genStart => exact exec_genStart_closed fun hmode => by simp [(gateOpen_genStart_iff s).mpr hmode] at hclosed
  | genPulse p => exact exec_genPulse_closed (beq_eq_false_iff_ne.mp hclosed)
  | genFinish => exact exec_genFinish_closed (beq_eq_false_iff_ne.mp hclosed)
  | nop | cfgWr | cfgRd | reset | encReset | decReset | parReset | genReset => cases hclosed

/-! ### BUSY -/

/-- The causes of `BUSY` (60_exceptions.md R907). -/
def BusyCause (i : Instr) (s : State) : Prop :=
  (∃ p, i = .decPulse p) ∧ 0 < s.dec.rem
    ∨ (∃ b, i = .parByte b) ∧ s.params.parBufCap = some (s.par.buf.length - s.par.cur)

theorem exec_busy {i : Instr} {s : State} (hopen : gateOpen i s = true) (hbusy : BusyCause i s) :
    exec i s = .next { s with response := ⟨.busy, []⟩ } := by
  obtain ⟨⟨p, rfl⟩, hrem⟩ | ⟨⟨b, rfl⟩, hcap⟩ := hbusy
  · exact exec_decPulse_busy (beq_iff_eq.mp hopen) hrem
  · have hopen : parInputClosed s.par = false := by simpa [gateOpen_parByte] using hopen
    have hfull : parBufFull s.params s.par = true := beq_iff_eq.mpr hcap
    simp only [exec, execParByte, hopen, Bool.false_eq_true, if_false, if_pos hfull, refuse_eq]

/-! ### Commands that are not refused -/

section
variable {s t : State}

theorem respond_not_refused {st : Status} {words : List Word} (h : respond st words s = .next t)
    (hst : isRefusal st = false) : isRefusal t.response.status = false := by
  cases h
  exact hst

/-- No fault reports a refusal (60_exceptions.md R902). -/
theorem raise_not_refused {f : UnitFault} (h : raise f s = .next t) : isRefusal t.response.status = false :=
  respond_not_refused h (by cases f <;> rfl)

theorem encCountSample_not_refused {words : List Word} (h : encCountSample words s = .next t) :
    isRefusal t.response.status = false := by
  simp only [encCountSample] at h
  split at h
  · exact raise_not_refused h
  · exact respond_not_refused h rfl

theorem parCheckHeader_not_refused (h : parCheckHeader s = .next t) : isRefusal t.response.status = false := by
  simp only [parCheckHeader] at h
  split at h
  · exact raise_not_refused h
  · exact respond_not_refused h rfl

theorem parNeedMore_status (h : parNeedMore s = .next t) :
    t.response.status = .needMore ∨ t.response.status = .endOfStream ∨ t.response.status = .truncatedAtEos := by
  cases heos : s.par.eos with
  | false => rw [parNeedMore_open heos] at h; cases h; exact .inl rfl
  | true =>
    rw [parNeedMore_ended heos] at h
    split at h
    · cases h; exact .inr (.inl rfl)
    · cases h; exact .inr (.inr rfl)

theorem parNeedMore_not_refused (h : parNeedMore s = .next t) : isRefusal t.response.status = false := by
  obtain hst | hst | hst := parNeedMore_status h <;> rw [hst] <;> rfl

theorem parPullLoop_not_refused {fuel : Nat} (h : parPullLoop fuel s = .next t) :
    isRefusal t.response.status = false := by
  induction fuel generalizing s with
  | zero => exact parNeedMore_not_refused h
  | succ fuel ih =>
    unfold parPullLoop at h
    split at h
    · exact respond_not_refused h rfl
    · exact (ih h :)
    · exact raise_not_refused h
    · exact raise_not_refused h
    · exact parNeedMore_not_refused h

theorem encSample_not_refused {x : Word} (hrun : s.enc.mode = .running) (h : exec (.encSample x) s = .next t) :
    isRefusal t.response.status = false := by
  simp only [exec, execEncSample, ne_eq, hrun, not_true_eq_false, if_false] at h
  split at h
  · exact encCountSample_not_refused h
  · exact encCountSample_not_refused h

theorem decPulse_not_refused {p : Word} (hrun : s.dec.mode = .running) (hrem : s.dec.rem = 0)
    (h : exec (.decPulse p) s = .next t) : isRefusal t.response.status = false := by
  by_cases hp : pulseOperand s.params p = 0
  · rw [exec_decPulse_zero hrun hrem hp] at h; cases h; rfl
  · rw [exec_decPulse_starts hrun hrem hp] at h; cases h; rfl

theorem parByte_not_refused {b : Byte} (hopen : parInputClosed s.par = false)
    (hroom : s.params.parBufCap ≠ some (s.par.buf.length - s.par.cur)) (h : exec (.parByte b) s = .next t) :
    isRefusal t.response.status = false := by
  by_cases hlast : s.par.mode = .awaitingHeader ∧ s.par.buf.length + 1 = s.params.headerSize
  · rw [exec_parByte_checks hopen hroom hlast.1 hlast.2] at h
    exact parCheckHeader_not_refused h
  · rw [exec_parByte_appends hopen hroom (not_and.mp hlast)] at h
    cases h
    rfl

theorem parEos_not_refused (hopen : parInputClosed s.par = false) (h : exec .parEos s = .next t) :
    isRefusal t.response.status = false := by
  obtain ⟨heos, hmode | hmode⟩ := (parInputClosed_eq_false_iff s.par).mp hopen
  · rw [exec_parEos_awaiting heos hmode] at h; cases h; rfl
  · rw [exec_parEos_streaming heos hmode] at h; cases h; rfl

theorem parPull_not_refused (hmode : s.par.mode ≠ .invalid) (h : exec .parPull s = .next t) :
    isRefusal t.response.status = false := by
  simp only [exec, execParPull] at h
  split at h
  · next hinvalid => exact absurd hinvalid hmode
  · exact respond_not_refused h rfl
  · exact respond_not_refused h rfl
  · exact parPullLoop_not_refused h

theorem genStart_not_refused (hmode : s.gen.mode = .idle ∨ s.gen.mode = .done) (h : exec .genStart s = .next t) :
    isRefusal t.response.status = false := by
  simp only [exec, execGenStart, if_neg ((not_writing_or_faulted_iff s.gen.mode).mpr hmode)] at h
  split at h
  · exact raise_not_refused h
  · split at h
    · exact raise_not_refused h
    · exact respond_not_refused h rfl

theorem genPulse_not_refused {p : Word} (hmode : s.gen.mode = .writing) (h : exec (.genPulse p) s = .next t) :
    isRefusal t.response.status = false := by
  simp only [exec, execGenPulse, ne_eq, hmode, not_true_eq_false, if_false] at h
  split at h
  · exact raise_not_refused h
  · split at h
    · exact raise_not_refused h
    · exact respond_not_refused h rfl

theorem genFinish_not_refused (hmode : s.gen.mode = .writing) (h : exec .genFinish s = .next t) :
    isRefusal t.response.status = false := by
  simp only [exec, execGenFinish, ne_eq, hmode, not_true_eq_false, if_false] at h
  split at h
  · exact respond_not_refused h rfl
  · exact respond_not_refused h rfl

theorem cfgRd_status {reg : Byte} (h : exec (.cfgRd reg) s = .next t) :
    t.response.status = .ok ∨ t = { s with response := ⟨.badReg, []⟩ } := by
  simp only [exec, execCfgRd] at h
  split at h
  · cases h; exact .inl rfl
  · cases h; exact .inr rfl

theorem cfgWr_status {reg : Byte} {v : Word} (h : exec (.cfgWr reg v) s = .next t) :
    t.response.status = .ok ∨ t = { s with response := ⟨.badReg, []⟩ } := by
  simp only [exec, execCfgWr] at h
  split at h
  · cases h; exact .inl rfl
  · cases h; exact .inr rfl

/-- Past its gate and with no cause of `BUSY`, a command is refused at most with `BAD_REG` (60_exceptions.md R920). -/
theorem exec_unrefused {i : Instr} (hopen : gateOpen i s = true) (hfree : ¬ BusyCause i s) (h : exec i s = .next t) :
    isRefusal t.response.status = false ∨ t = { s with response := ⟨.badReg, []⟩ } := by
  cases i with
  | nop | reset | encReset | decReset | parReset | genReset => exact .inl (respond_not_refused h rfl)
  | cfgRd reg => exact (cfgRd_status h).imp_left fun hst => by rw [hst]; rfl
  | cfgWr reg v => exact (cfgWr_status h).imp_left fun hst => by rw [hst]; rfl
  | encSample x => exact .inl (encSample_not_refused (beq_iff_eq.mp hopen) h)
  | encFlush => rw [exec_encFlush_running (beq_iff_eq.mp hopen)] at h; cases h; exact .inl rfl
  | decPulse p =>
    have hrem : s.dec.rem = 0 := Nat.eq_zero_of_not_pos fun hpos => hfree (.inl ⟨⟨p, rfl⟩, hpos⟩)
    exact .inl (decPulse_not_refused (beq_iff_eq.mp hopen) hrem h)
  | decPull n => rw [exec_decPull_running (beq_iff_eq.mp hopen)] at h; cases h; exact .inl rfl
  | parByte b =>
    have hroom : s.params.parBufCap ≠ some (s.par.buf.length - s.par.cur) := fun hcap =>
      hfree (.inr ⟨⟨b, rfl⟩, hcap⟩)
    exact .inl (parByte_not_refused (by simpa [gateOpen_parByte] using hopen) hroom h)
  | parEos => exact .inl (parEos_not_refused (by simpa [gateOpen_parEos] using hopen) h)
  | parPull => exact .inl (parPull_not_refused (fun hmode => by simp [gateOpen, hmode] at hopen) h)
  | genStart => exact .inl (genStart_not_refused ((gateOpen_genStart_iff s).mp hopen) h)
  | genPulse p => exact .inl (genPulse_not_refused (beq_iff_eq.mp hopen) h)
  | genFinish => exact .inl (genFinish_not_refused (beq_iff_eq.mp hopen) h)

end

/-! ### The four outcomes of a command -/

/-- Every way a command ends, by what refuses it (60_exceptions.md R902, R920). -/
inductive GateOutcome (i : Instr) (s : State) : State → Prop where
  | closed (hclosed : gateOpen i s = false) : GateOutcome i s { s with response := ⟨.badState, []⟩ }
  | busy (hopen : gateOpen i s = true) (hbusy : BusyCause i s) : GateOutcome i s { s with response := ⟨.busy, []⟩ }
  | badReg (hopen : gateOpen i s = true) (hfree : ¬ BusyCause i s) :
      GateOutcome i s { s with response := ⟨.badReg, []⟩ }
  | accepted {t : State} (hopen : gateOpen i s = true) (hfree : ¬ BusyCause i s)
      (hstatus : isRefusal t.response.status = false) : GateOutcome i s t

theorem exec_gateOutcome {i : Instr} {s t : State} (h : exec i s = .next t) : GateOutcome i s t := by
  cases hgate : gateOpen i s with
  | false =>
    rw [exec_gateClosed hgate] at h
    cases h
    exact .closed hgate
  | true =>
    by_cases hbusy : BusyCause i s
    · rw [exec_busy hgate hbusy] at h
      cases h
      exact .busy hgate hbusy
    · obtain hstatus | rfl := exec_unrefused hgate hbusy h
      · exact .accepted hgate hbusy hstatus
      · exact .badReg hgate hbusy

/-- Settles O5: of the four outcomes the closed gate's alone answers `BAD_STATE`. -/
theorem modeGatesDecideBadState : Obligations.ModeGatesDecideBadState := by
  intro i s t h
  cases exec_gateOutcome h with
  | closed hclosed => exact iff_of_true rfl hclosed
  | busy hopen | badReg hopen => exact iff_of_false nofun (by simp [hopen])
  | accepted hopen _ hstatus => exact iff_of_false (fun hst => by rw [hst] at hstatus; cases hstatus) (by simp [hopen])

theorem isRefusal_iff_mem (st : Status) :
    isRefusal st = true ↔ st ∈ [Status.illegalCmd, .badReg, .badState, .busy] := by
  cases st <;> decide

/-- Settles O6: the three outcomes that answer a refusal write the response alone. -/
theorem refusalsWriteNoState : Obligations.RefusalsWriteNoState := by
  intro i s t h hrefused
  cases exec_gateOutcome h with
  | closed | busy | badReg => rfl
  | accepted _ _ hstatus => rw [(isRefusal_iff_mem _).mpr hrefused] at hstatus; cases hstatus

/-! ### What clears BUSY -/

/-- A decoded pulse takes a byte or more of the buffer, wherever the pull begins (43_overflow_codec.md R720). -/
theorem ovfDecode_pulse_bounds {params : Config.Params} {profile : Profile} {buf : List Byte} {i v j : Nat} {eos : Bool}
    (hprofile : profileOk profile) (h : ovfDecode params profile buf i eos = .pulse v j) :
    i < j ∧ j ≤ buf.length := by
  have hi : i ≤ buf.length := by
    by_contra hi
    rw [ovfDecode_of_length_le (Nat.le_of_not_le hi)] at h
    cases h
  exact pulseEnd_ovfDecode hprofile hi (by rw [h]; rfl)

/-- A pull that returns a pulse has consumed its bytes and those of the zero pulses before it (44_framing.md R822). -/
theorem parPullLoop_ok_bounds {fuel : Nat} {s t : State} (hprofile : profileOk s.par.profile)
    (h : parPullLoop fuel s = .next t) (hok : t.response.status = .ok) :
    s.par.cur < t.par.cur ∧ t.par.cur ≤ t.par.buf.length := by
  have notNeedMore : ∀ {s}, parNeedMore s ≠ .next t := fun h => by
    obtain hst | hst | hst := parNeedMore_status h <;> rw [hok] at hst <;> cases hst
  induction fuel generalizing s with
  | zero => exact absurd h notNeedMore
  | succ fuel ih =>
    unfold parPullLoop at h
    split at h
    · next hpulse => cases h; exact ovfDecode_pulse_bounds hprofile hpulse
    · next j hskip =>
      obtain ⟨hcur, -⟩ := ovfDecode_skip_bounds hprofile hskip
      obtain ⟨hnext, hlen⟩ := ih (s := { s with par := { s.par with cur := j } }) hprofile h
      exact ⟨hcur.trans hnext, hlen⟩
    · cases h; cases hok
    · cases h; cases hok
    · exact absurd h notNeedMore

theorem parPull_ok_bounds {s t : State} (hprofile : profileOk s.par.profile) (h : exec .parPull s = .next t)
    (hok : t.response.status = .ok) : s.par.cur < t.par.cur ∧ t.par.cur ≤ t.par.buf.length := by
  cases hmode : s.par.mode with
  | invalid => rw [exec_parPull_invalid hmode] at h; cases h; cases hok
  | done => rw [exec_parPull_done hmode] at h; cases h; cases hok
  | awaitingHeader => rw [exec_parPull_awaiting hmode] at h; cases h; cases hok
  | streamingPulses =>
    rw [exec_parPull_loop hmode] at h
    exact parPullLoop_ok_bounds hprofile h hok

theorem exec_busy_iff {i : Instr} {s t : State} (h : exec i s = .next t) :
    t.response.status = .busy ↔ gateOpen i s = true ∧ BusyCause i s := by
  cases exec_gateOutcome h with
  | closed hclosed => exact iff_of_false nofun (by simp [hclosed])
  | busy hopen hbusy => exact iff_of_true rfl ⟨hopen, hbusy⟩
  | badReg _ hfree => exact iff_of_false nofun fun hbusy => hfree hbusy.2
  | accepted _ hfree hstatus =>
    exact iff_of_false (fun hst => by rw [hst] at hstatus; cases hstatus) fun hbusy => hfree hbusy.2

/-- Settles O7: the outcome that answers `BUSY`, and the two pulls that clear its causes. -/
theorem busyOnlyWhileFull : Obligations.BusyOnlyWhileFull := by
  refine ⟨fun _ _ _ h => exec_busy_iff h, fun s t n hrun hle h => ?_, fun _ _ => parPull_ok_bounds⟩
  rw [exec_decPull_running hrun, Nat.min_eq_right hle] at h
  cases h
  exact Nat.sub_self _

end Sys2Proof.Proofs
end

section
/-! The return from a fault (60_exceptions.md R927): which changes of a unit leave its terminal modes, and which units a
fault of a command reaches. -/

namespace Sys2Proof.Proofs

open Sys2Proof.Machine Sys2Proof.Claims Sys2Proof.Laws

/-! ### The terminal modes -/

section
variable {params : Config.Params} {i : Instr} (notReset : i ≠ .reset)
include notReset

theorem encChange_keeps_ended {e e' : Enc} (h : EncChange params e i e') (hi : i ≠ .encReset)
    (hmode : e.mode ≠ .running) : e'.mode = e.mode := by
  cases h with
  | ctrl reg v => exact writeEncCtrl_mode v e
  | kept | sens | minDur | thresh => rfl
  | counted _ _ running | overflowed _ _ running | flushed running => exact absurd running hmode
  | unitReset => exact absurd rfl hi
  | blockReset => exact absurd rfl notReset

theorem decChange_keeps_faulted {d d' : Dec} (h : DecChange params d i d') (hi : i ≠ .decReset)
    (hmode : d.mode = .faulted) : d'.mode = .faulted := by
  cases h with
  | kept | ctrl | volume | started | pulled => exact hmode
  | zeroPulse => rfl
  | unitReset => exact absurd rfl hi
  | blockReset => exact absurd rfl notReset

theorem genChange_keeps_faulted {g g' : Gen} (h : GenChange params g i g') (hi : i ≠ .genReset)
    (hmode : g.mode = .faulted) : g'.mode = .faulted := by
  cases h with
  | kept | cfg | rate | wrote => exact hmode
  | unsupported | zeroPulse | noRoom => rfl
  | started _ startable => exact absurd hmode startable.2
  | finishedTap writing | finishedDmp writing => rw [writing] at hmode; cases hmode
  | unitReset => exact absurd rfl hi
  | blockReset => exact absurd rfl notReset

/-- The table of PAR's modes has no other way out of Invalid (44_framing.md R801). -/
theorem parserMayGo_keeps_invalid {a b : ParMode} (h : parserMayGo i a b) (hi : i ≠ .parReset)
    (hmode : a = .invalid) : b = .invalid := by
  subst hmode
  obtain h | ⟨h | h, -⟩ | ⟨-, h, -⟩ | ⟨-, h, -⟩ | ⟨-, h, -⟩ := h
  · exact h.symm
  · exact absurd h hi
  · exact absurd h notReset
  all_goals cases h

end

/-! ### The unit of a fault -/

/-- A command that answers a fault belongs to one unit and changes no other: the block commands raise none
(60_exceptions.md R910 to R917, R927). -/
theorem fault_touches_one_unit {i : Instr} {s t : State} (h : exec i s = .next t)
    (hfault : t.response.status ∈ faultStatuses) :
    (touchesEnc i = true ∧ t.dec = s.dec ∧ t.gen = s.gen ∧ t.par = s.par)
      ∨ (touchesDec i = true ∧ t.enc = s.enc ∧ t.gen = s.gen ∧ t.par = s.par)
      ∨ (touchesGen i = true ∧ t.enc = s.enc ∧ t.dec = s.dec ∧ t.par = s.par)
      ∨ (touchesPar i = true ∧ t.enc = s.enc ∧ t.dec = s.dec ∧ t.gen = s.gen) := by
  obtain ⟨-, -, henc, hdec, hgen, hpar⟩ := commandsTouchOnlyTheirUnit i s t h
  have raisesNone : t.response.status = .ok ∨ t = { s with response := ⟨.badReg, []⟩ } → False := by
    have hnone : Status.ok ∉ faultStatuses ∧ Status.badReg ∉ faultStatuses := by decide
    rintro (hst | rfl)
    · exact hnone.1 (hst ▸ hfault)
    · exact hnone.2 hfault
  cases i with
  | nop | reset => cases h; exact (raisesNone (.inl rfl)).elim
  | cfgRd reg => exact (raisesNone (cfgRd_status h)).elim
  | cfgWr reg v => exact (raisesNone (cfgWr_status h)).elim
  | encSample | encFlush | encReset => exact .inl ⟨rfl, hdec rfl, hgen rfl, hpar rfl⟩
  | decPulse | decPull | decReset => exact .inr (.inl ⟨rfl, henc rfl, hgen rfl, hpar rfl⟩)
  | genStart | genPulse | genFinish | genReset => exact .inr (.inr (.inl ⟨rfl, henc rfl, hdec rfl, hpar rfl⟩))
  | parByte | parPull | parEos | parReset => exact .inr (.inr (.inr ⟨rfl, henc rfl, hdec rfl, hgen rfl⟩))

/-- Settles O9: the modes by the changes a command can make to each unit, the refusals by the closed gates. -/
theorem faultsAreLeftOnlyByReset : Obligations.FaultsAreLeftOnlyByReset := by
  refine ⟨fun i s t h hi => ?_, fun s v b => ?_, fun _ _ _ => fault_touches_one_unit⟩
  · have change := exec_stateChange h
    exact ⟨encChange_keeps_ended hi change.enc, decChange_keeps_faulted hi change.dec,
      genChange_keeps_faulted hi change.gen, parserMayGo_keeps_invalid hi (parserModesFollowTheTable i s t h)⟩
  · intro refused
    refine ⟨fun hmode => ?_, fun hmode => ?_, fun hmode => ?_, fun hmode => ?_⟩
    · have hclosed : (s.enc.mode == .running) = false := beq_eq_false_iff_ne.mpr hmode
      exact ⟨exec_gateClosed hclosed, exec_gateClosed hclosed⟩
    · have hclosed : (s.dec.mode == .running) = false := by rw [hmode]; rfl
      exact ⟨exec_gateClosed hclosed, exec_gateClosed hclosed⟩
    · have hclosed : (s.gen.mode == .writing) = false := by rw [hmode]; rfl
      exact ⟨exec_gateClosed (by rw [gateOpen, hmode]; rfl), exec_gateClosed hclosed, exec_gateClosed hclosed⟩
    · have hclosed : parInputClosed s.par = true := (parInputClosed_iff s.par).mpr (.inr (.inl hmode))
      exact ⟨exec_parByte_closed hclosed, exec_parPull_invalid hmode, exec_parEos_closed hclosed⟩

end Sys2Proof.Proofs
end

section
/-! The power-on state and the states the resets leave (70_reset_and_hazards.md R1001 to R1004): the invariants of the
units, what every register reads, and every element of a unit's state. -/

namespace Sys2Proof.Proofs

open Sys2Proof.Machine Sys2Proof.Claims Sys2Proof.Laws

/-! ### The invariants -/

/-- Settles O60: each unit at power-on is itself after its unit reset, with legal registers and the spec's header size. -/
theorem powerOnStateIsOk : Obligations.PowerOnStateIsOk where
  enc := encOk_unitReset (e := encReset) rfl (by decide)
  dec := decOk_unitReset (d := decReset) rfl rfl
  gen := genOk_unitReset (g := genReset) rfl rfl
  par := parOk_reset rfl

/-! ### The registers -/

/-- The power-on state of a block with any parameters and any words issued to it (70_reset_and_hazards.md R1001). -/
def powerOn (params : Config.Params) (port : List CommandWord) : State :=
  { State.reset with params := params, port := port }

theorem perform_reset (s : State) : perform .reset s = powerOn s.params s.port :=
  perform_of_exec (blockResetLeavesThePowerOnState s)

/-- The reset value of a register by its number: three RW registers have one other than 0 (70_reset_and_hazards.md
R1002). -/
def resetValue (n : Byte) : Word :=
  if n = 0x11#8 then 0x64#32 else if n = 0x21#8 then 0x7FFFFFFF#32 else if n = 0x30#8 then 0x800#32 else 0#32

/-- An RW register reads as stored, a status register is a sum of flags and codes that are all 0, and any other RO
register reads an element that is 0 or empty (70_reset_and_hazards.md R1002). -/
theorem readReg_powerOn (params : Config.Params) (port : List CommandWord) (r : Reg) :
    readReg r (powerOn params port) = resetValue (regNumber r) := by
  cases r with
  | encCtrl | encSens | encMinDur | encThresh | decCtrl | decVolume | genCfg | genRate => rfl
  | encStatus | decStatus | genStatus | parStatus => rfl
  | encCount | encLevel | decRem | decPlen | genWptr | genRateOut => rfl
  | parVersion | parMachine | parVideo | parBps | parRate | parDataLen | parOffset | parBufLen | parReserved => rfl

theorem exec_cfgRd_powerOn (params : Config.Params) (port : List CommandWord) {n : Byte} (hn : n ∈ mappedNumbers) :
    exec (.cfgRd n) (powerOn params port) = .next { powerOn params port with response := ⟨.ok, [resetValue n]⟩ } := by
  change n ∈ allRegs.map regNumber at hn
  obtain ⟨r, -, rfl⟩ := List.mem_map.mp hn
  rw [exec_cfgRd_regNumber, readReg_powerOn]

/-- Settles O19: both states are power-on states. -/
theorem resetRegisterValues : Obligations.ResetRegisterValues := by
  intro s t ht r hr
  obtain rfl | rfl := List.mem_pair.mp ht
  · exact exec_cfgRd_powerOn State.reset.params State.reset.port hr
  · rw [perform_reset]
    exact exec_cfgRd_powerOn s.params s.port hr

/-! ### The unit state -/

/-- A unit reset leaves the unit at its reset values but for the configuration registers (40_control.md R406). -/
theorem perform_unitResets (s : State) :
    (perform .encReset s).enc = encUnitReset s.enc ∧ (perform .decReset s).dec = decUnitReset s.dec
      ∧ (perform .genReset s).gen = genUnitReset s.gen ∧ (perform .parReset s).par = parReset := by
  obtain ⟨henc, hdec, hpar, hgen⟩ := unitResetsKeepConfiguration s
  rw [perform_of_exec henc, perform_of_exec hdec, perform_of_exec hgen, perform_of_exec hpar]
  exact ⟨rfl, rfl, rfl, rfl⟩

/-- A unit at its reset values is what its own reset makes of them, so a property that the reset establishes from every
state of the unit holds at power-on and behind both resets (70_reset_and_hazards.md R1003). -/
theorem forall_resets {α : Type} {P : α → Prop} {unitReset : α → α} (hP : ∀ u, P (unitReset u)) (resetUnit unit : α) :
    ∀ u ∈ [unitReset resetUnit, unitReset resetUnit, unitReset unit], P u := by
  simp only [List.forall_mem_cons, hP, true_and]
  exact nofun

/-- Settles O20: every element of a unit behind its reset, read off by the unit's own laws. -/
theorem resetUnitState : Obligations.ResetUnitState := by
  intro s
  obtain ⟨henc, hdec, hgen, hpar⟩ := perform_unitResets s
  rw [perform_reset, henc, hdec, hgen, hpar]
  refine ⟨forall_resets (unitReset := encUnitReset) (fun e => ?_) encReset s.enc,
    forall_resets (unitReset := decUnitReset) (fun d => ?_) decReset s.dec,
    forall_resets (unitReset := genUnitReset) (fun g => ?_) genReset s.gen,
    forall_resets (unitReset := fun _ => parReset) (fun _ => ?_) parReset s.par⟩
  · simp
  · simp
  · simp
  · simp [parReset]

end Sys2Proof.Proofs
end
